-- ==== Sys2Proof/Word.lean ====
section
/-! DEFINITION. The word types of the block and the small value types built of them (spec/00_scope.md R6, R10, R11).
-/
namespace Sys2Proof

/-- A byte is 8 bits, unsigned (R6). -/
abbrev Byte := BitVec 8

/-- Host registers are 32 bits (R6). -/
abbrev Word := BitVec 32

/-- The four message classes, indexed ID = 0, REQ = 1, WD = 2, DATA = 3 (R10). -/
inductive MsgClass where
  | id | req | wd | data
deriving DecidableEq, Repr, Inhabited

/-- The class index used by every KIND field (R10). -/
def MsgClass.toBits : MsgClass → BitVec 2
  | .id => 0 | .req => 1 | .wd => 2 | .data => 3

/-- The class of a KIND field (R10). -/
def MsgClass.ofBits (k : BitVec 2) : MsgClass :=
  if k = 0 then .id else if k = 1 then .req else if k = 2 then .wd else .data

/-- Request is DIR = 0, response is DIR = 1 (R11). -/
inductive Direction where
  | request | response
deriving DecidableEq, Repr, Inhabited

/-- The DIR bit of a direction (R11). -/
def Direction.toBool : Direction → Bool
  | .request => false | .response => true

/-- The direction of a DIR bit (R11). -/
def Direction.ofBool (d : Bool) : Direction :=
  if d then .response else .request

/-- An address: exactly 4 raw bytes, compared byte for byte, never read as a number (R6, glossary). -/
structure Addr where
  b0 : Byte
  b1 : Byte
  b2 : Byte
  b3 : Byte
deriving DecidableEq, Repr, Inhabited

/-- The address bytes in wire order (spec/20_memory.md R63, R64). -/
def Addr.toList (a : Addr) : List Byte := [a.b0, a.b1, a.b2, a.b3]

/-- One value for each message class. -/
structure PerClass (α : Type) where
  id : α
  req : α
  wd : α
  data : α
deriving DecidableEq, Repr, Inhabited

/-- The entry of class `c`. -/
def PerClass.get {α : Type} (p : PerClass α) : MsgClass → α
  | .id => p.id | .req => p.req | .wd => p.wd | .data => p.data

/-- The entry of class `c` replaced. -/
def PerClass.set {α : Type} (p : PerClass α) (c : MsgClass) (x : α) : PerClass α :=
  match c with
  | .id => { p with id := x }
  | .req => { p with req := x }
  | .wd => { p with wd := x }
  | .data => { p with data := x }

end Sys2Proof
end

