-- ==== Sys2Proof/Config.lean ====
section
/-! DEFINITION. The configuration parameters of the block (spec/00_scope.md R5), the free constants that stand for the open
ones, and the reference configuration of the test vectors (spec/30_encoding.md R98).
-/
namespace Sys2Proof

/-- The frame delimiter, a constant and no parameter (R5, R89). -/
abbrev DELIM : Byte := 0x0D

/-- A configuration of type codes is legal iff V1 (bit 0x20 clear), V2 (pairwise distinct) and V3 (none is 0x0D) hold (R90). -/
def legalCodes (tc : PerClass Byte) : Bool :=
  [tc.id, tc.req, tc.wd, tc.data].all (fun c => c &&& 0x20 == 0 && c != DELIM)
    && tc.id != tc.req && tc.id != tc.wd && tc.id != tc.data
    && tc.req != tc.wd && tc.req != tc.data && tc.wd != tc.data

/-- The parameter TC. An illegal TC is refused (R90, R266): the type holds no illegal one. -/
structure TypeCodes where
  code : PerClass Byte
  legal : legalCodes code = true
deriving DecidableEq, Repr

/-- Which checksum the block was built with (R190). `external` is the source's collaborator, of which nothing is known;
`refSum16` is the reference checksum of the test vectors (R203). -/
inductive Checksum where
  | external | refSum16
deriving DecidableEq, Repr

/-- The parameters the model takes (R5). They are configuration: no operation of the block changes them. -/
structure Config where
  tc : TypeCodes
  unassigned : Addr
  chk : Checksum
  idWaitReset : BitVec 16
deriving DecidableEq, Repr

/-- The type codes of the reference configuration (R98). -/
def Config.referenceCodes : TypeCodes :=
  { code := { id := 0x49, req := 0x52, wd := 0x57, data := 0x44 }, legal := by decide }

/-- The reference configuration, used by the test vectors only and no claim about the hardware (R98). -/
def Config.reference : Config :=
  { tc := Config.referenceCodes, unassigned := ⟨0x30, 0x30, 0x30, 0x30⟩, chk := .refSum16, idWaitReset := 3000 }

/-- The external checksum: a total function from a byte list to two bytes, output byte 0 first, otherwise unknown (R190).
DESIGN CHOICE (log entry 5). -/
opaque Config.externalChk : List Byte → Byte × Byte

/-- The open bytes of TC before the legality check (R5, R90). DESIGN CHOICE (log entries 5, 6). -/
opaque Config.openCodes : PerClass Byte

/-- The open bytes of the unassigned address (R5). DESIGN CHOICE (log entry 5). -/
opaque Config.openUnassigned : Addr

/-- The open identification wait, in ticks (R5). DESIGN CHOICE (log entry 5). -/
opaque Config.openIdWait : BitVec 16

/-- The address the platform's store supplies at the reset that begins a run (R5, R281). DESIGN CHOICE (log entry 7). -/
opaque Config.nvAddr : Addr

/-- Where the register window sits in a host's address space (spec/20_memory.md R72); no operation of the block reads it.
DESIGN CHOICE (log entry 5). -/
opaque Config.sbpeBase : Nat

/-- Milliseconds per Tick event (R5, decision D13); no operation of the block reads it. -/
def Config.tickMs : Nat := 1

/-- The type codes of the block: the open codes where they are legal. An illegal choice is refused (R90); no machine
carries it, and the reference codes stand in its place (log entry 6). -/
def Config.blockCodes : TypeCodes :=
  if h : legalCodes Config.openCodes = true then ⟨Config.openCodes, h⟩ else Config.referenceCodes

/-- The configuration of the block that `State.reset` starts: every open parameter free (R5). -/
def Config.block : Config :=
  { tc := Config.blockCodes, unassigned := Config.openUnassigned, chk := .external, idWaitReset := Config.openIdWait }

end Sys2Proof
end

