-- ==== Sys2Proof/Syntax.lean ====
section
/-! DEFINITION. The instructions: one constructor per row of spec/opcode_table.json, in the table's three spaces (wire frames,
host command words, input events), the host registers they name, and the raw inputs they are decoded from.
-/
namespace Sys2Proof

/-- The host registers of the window (spec/10_state.md R23, R37). `reserved` carries the offset it stands at. -/
inductive Reg where
  | ctrl | status | addr | idcfg | sval | tcodes | cmd | cnt | rtd | txcfg | txaddr | rxinfo
  | rxbuf0 | rxbuf1 | rxbuf2
  | period (c : MsgClass)
  | wait (c : MsgClass)
  | retry (c : MsgClass)
  | intstat | inten
  | reserved (off : BitVec 8)
deriving DecidableEq, Repr

/-- The instructions of the block. A frame's checksum and delimiter are no operands: they follow from the other bytes
(spec/30_encoding.md R80). -/
inductive Instr where
  /-- ID_REQ, format F8I (R82) -/
  | idReq (devtype mod0 mod1 mod2 : Byte)
  /-- ID_RESP, format F8A (R83) -/
  | idResp (a : Addr)
  /-- REQ_REQ, format F9 or, with a battery byte, F10 (R84, R85) -/
  | reqReq (a : Addr) (val : Byte) (batt : Option Byte)
  /-- REQ_RESP (R84, R85) -/
  | reqResp (a : Addr) (val : Byte) (batt : Option Byte)
  /-- WD_REQ (R84, R86) -/
  | wdReq (a : Addr) (val : Byte) (batt : Option Byte)
  /-- WD_RESP (R84, R86) -/
  | wdResp (a : Addr) (val : Byte) (batt : Option Byte)
  /-- DATA_REQ (R84, R87) -/
  | dataReq (a : Addr) (val : Byte) (batt : Option Byte)
  /-- DATA_RESP (R84, R87) -/
  | dataResp (a : Addr) (val : Byte) (batt : Option Byte)
  /-- UNKNOWN_TYPE, a byte that is no type code where a frame would start (R91, R195) -/
  | unknownType (code : Byte)
  /-- NOP, opcode 0x00 (R224) -/
  | nop
  /-- TRIGGER, opcode 0x01 (R111) -/
  | trigger
  /-- DATA_EVENT, opcode 0x02 (R122) -/
  | dataEvent
  /-- RX_POP, opcode 0x03 (R225) -/
  | rxPop
  /-- UNASSIGN, opcode 0x04 (R123) -/
  | unassign
  /-- CLR_ERR, opcode 0x05 (R226) -/
  | clrErr
  /-- TX_RAW, opcode 0x10 (R175) -/
  | txRaw
  /-- TX_LOGICAL, opcode 0x11 (R176) -/
  | txLogical
  /-- RESERVED_CMD, the table's row for opcodes 0x06 to 0x0F (R94, R227) -/
  | reservedCmdLow (op : Byte)
  /-- RESERVED_CMD, the table's row for opcodes 0x12 to 0xFF (R94, R227) -/
  | reservedCmdHigh (op : Byte)
  /-- RxByte(b), one byte from the transport (R194) -/
  | rxByte (b : Byte)
  /-- Tick, TICK_MS milliseconds pass (R115) -/
  | tick
  /-- Reset(NV_ADDR) (R280) -/
  | reset (nv : Addr)
  /-- RegRead(off) (R220) -/
  | regRead (r : Reg)
  /-- RegWrite(off, v) (R221) -/
  | regWrite (r : Reg) (v : Word)
deriving DecidableEq, Repr

/-- What the environment presents to the block: the input events of spec/00_scope.md R9, a register access with its width
in bits and its byte offset as the host drives them (R61), and `wire`, a stretch of the wire byte stream
(spec/20_memory.md R60; the RX line of spec/30_encoding.md R96). -/
inductive Input where
  | reset (nv : Addr)
  | regRead (width off : Nat)
  | regWrite (width off : Nat) (v : Word)
  | rxByte (b : Byte)
  | tick
  | wire (bs : List Byte)
deriving DecidableEq, Repr

end Sys2Proof
end

