-- ==== Sys2Proof/Machine/Operands.lean ====
section
/-! DEFINITION. The operand forms: byte lanes, the response-type lookup (RTD), the field encoders, the checksum and the frame
assembly. Pure functions of bytes and of the configuration.
-/
namespace Sys2Proof.Machine
open Sys2Proof

/-! ### Byte lanes (spec/20_memory.md R63) -/

/-- Byte `i` of a byte sequence is at bits [8i+7:8i] (R63). -/
def lane (w : Word) (i : Nat) : Byte := w.extractLsb' (8 * i) 8

/-- Four bytes in lane order, the first in bits 7:0 (R63). -/
def packLanes (b0 b1 b2 b3 : Byte) : Word := b3 ++ b2 ++ b1 ++ b0

/-- An address as a register reads it (R63). -/
def addrWord (a : Addr) : Word := packLanes a.b0 a.b1 a.b2 a.b3

/-- The address a register write gives (R63). -/
def wordAddr (w : Word) : Addr := ⟨lane w 0, lane w 1, lane w 2, lane w 3⟩

/-- Bytes 1 to 4 of a frame as an address (R81, R83, R84). -/
def frameAddr (fb : List Byte) : Addr := ⟨fb.getD 1 0, fb.getD 2 0, fb.getD 3 0, fb.getD 4 0⟩

/-! ### Response-type derivation and classification (spec/41_response_type.md) -/

/-- Derive(code) = code | 0x20 (R160). -/
def deriveResponse (code : Byte) : Byte := code ||| 0x20

/-- The type code of a kind: TC[k], or Derive(TC[k]) for a response (R81, R95). -/
def typeCode (tc : TypeCodes) (k : MsgClass) : Direction → Byte
  | .request => tc.code.get k
  | .response => deriveResponse (tc.code.get k)

/-- The class order of R161's loop. -/
def classes : List MsgClass := [.id, .req, .wd, .data]

/-- One turn of R161's loop. -/
def classifyAs (tc : TypeCodes) (code : Byte) (k : MsgClass) : Option (MsgClass × Direction) :=
  if code = typeCode tc k .request then some (k, .request)
  else if code = typeCode tc k .response then some (k, .response)
  else none

/-- Classify(code); `none` is UNKNOWN (R161). -/
def classify (tc : TypeCodes) (code : Byte) : Option (MsgClass × Direction) :=
  classes.findSome? (classifyAs tc code)

/-! ### Field encoders (spec/42_field_encoding.md) -/

/-- EncBool(v) = 0x30 + (v mod 2) (R170). -/
def encBool (v : Byte) : Byte := 0x30 + v % 2

/-- EncBatt(v) = 0x30 + (v mod 10) (R171). -/
def encBatt (v : Byte) : Byte := 0x30 + v % 10

/-! ### Checksum and frames (spec/43_framing_checksum.md) -/

/-- REF_SUM16: the 16-bit byte sum, high byte first (R203). -/
def refSum16 (b : List Byte) : Byte × Byte :=
  let s : BitVec 16 := b.foldl (fun acc x => acc + x.setWidth 16) 0
  (s.extractLsb' 8 8, s.extractLsb' 0 8)

/-- CHK, the checksum parameter applied (R190). -/
def chk : Checksum → List Byte → Byte × Byte
  | .external => Config.externalChk
  | .refSum16 => refSum16

/-- Frame(t, p): the type byte and the payload, their checksum, the delimiter (R192). -/
def frame (c : Checksum) (t : Byte) (p : List Byte) : List Byte :=
  (t :: p) ++ [(chk c (t :: p)).1, (chk c (t :: p)).2, DELIM]

/-- LENS(k), the candidate lengths of a class, shortest first (R198). -/
def candLens : MsgClass → List Nat
  | .id => [8]
  | .req => [9, 10]
  | .wd => [9, 10]
  | .data => [9, 10]

/-- MAXLEN(k) (R198). -/
def maxLen : MsgClass → Nat
  | .id => 8
  | .req => 10
  | .wd => 10
  | .data => 10

/-- Valid(n): the bytes n-3 and n-2 are the checksum of the bytes before them (R199). -/
def validAt (c : Checksum) (bs : List Byte) (n : Nat) : Bool :=
  chk c (bs.take (n - 3)) == (bs.getD (n - 3) 0, bs.getD (n - 2) 0)

/-- The ID_REQ frame, format F8I (R82). -/
def idReqFrame (cfg : Config) (devtype mod0 mod1 mod2 : Byte) : List Byte :=
  frame cfg.chk (typeCode cfg.tc .id .request) [devtype, mod0, mod1, mod2]

/-- The ID_RESP frame, format F8A (R83). -/
def idRespFrame (cfg : Config) (a : Addr) : List Byte :=
  frame cfg.chk (typeCode cfg.tc .id .response) a.toList

/-- A base-shape frame, format F9, or F10 with a battery byte (R84). -/
def baseFrame (cfg : Config) (k : MsgClass) (d : Direction) (a : Addr) (val : Byte) (batt : Option Byte) : List Byte :=
  frame cfg.chk (typeCode cfg.tc k d) (a.toList ++ val :: batt.toList)

/-! ### Command opcodes (spec/30_encoding.md R92 to R94) -/

/-- The commands a write to CMD can run (R93, R94). -/
inductive Command where
  | nop | trigger | dataEvent | rxPop | unassign | clrErr | txRaw | txLogical
  | reserved (op : Byte)
deriving DecidableEq, Repr

/-- The command of a command word: bits 7:0 are the opcode, bits 31:8 are ignored (R92, R93, R94). -/
def commandOf (v : Word) : Command :=
  let op := lane v 0
  if op = 0x00 then .nop
  else if op = 0x01 then .trigger
  else if op = 0x02 then .dataEvent
  else if op = 0x03 then .rxPop
  else if op = 0x04 then .unassign
  else if op = 0x05 then .clrErr
  else if op = 0x10 then .txRaw
  else if op = 0x11 then .txLogical
  else .reserved op

end Sys2Proof.Machine
end

