-- ==== Sys2Proof/Machine/State.lean ====
section
/-! DEFINITION. The state of the block as plain data (spec/10_state.md), the ways a step can stop, and the state after reset
(spec/70_reset_and_hazards.md R280, R281).
-/
namespace Sys2Proof.Machine
open Sys2Proof

/-! ### Host registers (spec/10_state.md §2, §4) -/

/-- CTRL, one field per defined bit; the reserved bits are RAZ/WI (R24). -/
structure Ctrl where
  seqEn : Bool
  rxEn : Bool
  battEn : Bool
  enReq : Bool
  enWd : Bool
  enData : Bool
deriving DecidableEq, Repr

/-- IDCFG, the identification payload (R27). -/
structure IdCfg where
  devtype : Byte
  mod0 : Byte
  mod1 : Byte
  mod2 : Byte
deriving DecidableEq, Repr

/-- SVAL, the raw inputs the sequencer encodes (R28). -/
structure SVal where
  value : Byte
  batt : Byte
deriving DecidableEq, Repr

/-- CNT, four saturating 8-bit counters (R31). -/
structure Counters where
  errType : Byte
  errChk : Byte
  errFrame : Byte
  txnFail : Byte
deriving DecidableEq, Repr

/-- TXCFG, the host transmit descriptor; the reserved bits are RAZ/WI (R33). -/
structure TxCfg where
  kind : MsgClass
  dir : Direction
  bp : Bool
  value : Byte
  batt : Byte
deriving DecidableEq, Repr

/-- RXINFO, the frame in the RX holding register (R35). -/
structure RxInfo where
  len : BitVec 4
  kind : MsgClass
  dir : Direction
  hasBatt : Bool
deriving DecidableEq, Repr

/-- The host-visible registers, less the table (R23 to R36, R41, R42). STATUS, TCODES, CMD and the RTD view have no storage
of their own. -/
structure HostRegs where
  ctrl : Ctrl
  addr : Addr
  idcfg : IdCfg
  sval : SVal
  cnt : Counters
  rtdIn : Byte
  txcfg : TxCfg
  txaddr : Addr
  rxinfo : RxInfo
  rxbuf0 : Word
  rxbuf1 : Word
  rxbuf2 : Word
  rxfValid : Bool
  rxOvr : Bool
  cmdErr : Bool
  intstat : BitVec 6
  inten : BitVec 6
deriving DecidableEq, Repr

/-! ### The retry/timeout table (spec/10_state.md §3) -/

/-- RETRY[c] (R40). -/
structure Retry where
  rwin : BitVec 16
  ren : Bool
  rinf : Bool
deriving DecidableEq, Repr

/-- One class's block of the table (R37 to R40). -/
structure TableRow where
  period : BitVec 16
  wait : BitVec 16
  retry : Retry
deriving DecidableEq, Repr

/-! ### The receiver (R44) -/

/-- RXS (R44). -/
inductive RxState where
  | idle | collect | hunt
deriving DecidableEq, Repr

/-- The receiver's internal state (R44). -/
structure Receiver where
  rxs : RxState
  rb : Vector Byte 10
  rn : Nat
  rk : MsgClass
  rd : Direction
  rsd : Bool
deriving DecidableEq, Repr

/-! ### The sequencer (R45 to R47) -/

/-- ASTATE, the address-assignment state (R45). -/
inductive AState where
  | unassigned | requested | assigned
deriving DecidableEq, Repr

/-- The transaction state of one class (R46). -/
structure Txn where
  active : Bool
  pend : Bool
  sent : Bool
  elap : BitVec 17
  tf : List Byte
  pcnt : BitVec 16
deriving DecidableEq, Repr

/-- ASTATE, the transactions and the slot (R45 to R47). -/
structure Sequencer where
  astate : AState
  txn : PerClass Txn
  infl : Bool
  scls : MsgClass
  wcnt : BitVec 16
deriving DecidableEq, Repr

/-! ### Outputs -/

/-- The outputs: the IRQ level (R43), the frames and addresses emitted (R49), and the values RegRead returned
(spec/70_reset_and_hazards.md R294; DESIGN CHOICE, log entry 8). Each list is oldest first. -/
structure Outputs where
  irq : Bool
  txlog : List (List Byte)
  nvlog : List Addr
  rdlog : List Word
deriving DecidableEq, Repr

/-! ### The whole state -/

/-- The state of the block (R20), its outputs (R43, R49), the configuration it was built with (spec/00_scope.md R5; no step
changes it, log entry 5) and the input events the environment has lined up for it (R9; log entry 1). -/
structure State where
  cfg : Config
  host : HostRegs
  table : PerClass TableRow
  frx : Receiver
  seq : Sequencer
  out : Outputs
  inputs : List Input
deriving DecidableEq, Repr

/-- The ways the machine can stop with a fault: none. "There is no faulted state" (spec/60_exceptions.md R250), so the type
has no constructor and nothing raises one (safe). -/
inductive Fault where
deriving DecidableEq, Repr

/-- The ways an input is refused: it has no step (spec/60_exceptions.md R266). -/
inductive Refusal where
  /-- Raised by an arm of `exec` whose instruction has no meaning yet; no arm does (safe). -/
  | notModelled (mnemonic : String)
  /-- Raised by `fetch` for a register access that is not 32 bits wide (R61); safe: claims about it are unprovable. -/
  | accessWidth (width : Nat)
  /-- Raised by `fetch` for a register access at an offset that is no multiple of 4 (R61); safe. -/
  | accessMisaligned (off : Nat)
  /-- Raised by `fetch` for a register access at an offset of 0x100 or above (R61); safe. -/
  | accessOutsideWindow (off : Nat)
deriving DecidableEq, Repr

/-- What the fetch finds: nothing to do, an instruction and the state it runs in, or a refused input. -/
inductive Fetched where
  | idle (s : State)
  | run (i : Instr) (s : State)
  | refuse (r : Refusal)
deriving DecidableEq, Repr

/-! ### Reset values (spec/70_reset_and_hazards.md R280, R281) -/

/-- Every host register after reset (R280). -/
def HostRegs.reset (nv : Addr) : HostRegs :=
  { ctrl := ⟨false, false, false, false, false, false⟩
    addr := nv
    idcfg := ⟨0, 0, 0, 0⟩
    sval := ⟨0, 0⟩
    cnt := ⟨0, 0, 0, 0⟩
    rtdIn := 0
    txcfg := ⟨.id, .request, false, 0, 0⟩
    txaddr := ⟨0, 0, 0, 0⟩
    rxinfo := ⟨0, .id, .request, false⟩
    rxbuf0 := 0
    rxbuf1 := 0
    rxbuf2 := 0
    rxfValid := false
    rxOvr := false
    cmdErr := false
    intstat := 0
    inten := 0 }

/-- The table after reset (R38 to R40, R280). -/
def tableReset (cfg : Config) : PerClass TableRow :=
  { id := ⟨0, cfg.idWaitReset, ⟨0, false, false⟩⟩
    req := ⟨500, 100, ⟨0, false, false⟩⟩
    wd := ⟨60000, 2000, ⟨0, true, true⟩⟩
    data := ⟨0, 2000, ⟨2000, true, false⟩⟩ }

/-- The receiver after reset (R44, R280). -/
def Receiver.reset : Receiver :=
  { rxs := .idle, rb := Vector.replicate 10 0, rn := 0, rk := .id, rd := .request, rsd := false }

/-- A class's transaction state after reset (R46, R280). -/
def Txn.reset : Txn :=
  { active := false, pend := false, sent := false, elap := 0, tf := [], pcnt := 0 }

/-- The sequencer after reset: ASSIGNED iff the stored address is not the unassigned one (R281). -/
def Sequencer.reset (cfg : Config) (nv : Addr) : Sequencer :=
  { astate := if nv = cfg.unassigned then .unassigned else .assigned
    txn := ⟨Txn.reset, Txn.reset, Txn.reset, Txn.reset⟩
    infl := false
    scls := .id
    wcnt := 0 }

/-- The block right after the Reset that begins a run (R280): the output streams empty (R49), no input lined up. -/
def State.resetWith (cfg : Config) (nv : Addr) : State :=
  { cfg := cfg
    host := HostRegs.reset nv
    table := tableReset cfg
    frx := Receiver.reset
    seq := Sequencer.reset cfg nv
    out := { irq := false, txlog := [], nvlog := [], rdlog := [] }
    inputs := [] }

/-- The machine right after reset, every open parameter free (log entries 5, 7). -/
def State.reset : State := State.resetWith Config.block Config.nvAddr

end Sys2Proof.Machine
end

