-- ==== Sys2Proof/Machine/Flags.lean ====
section
/-! DEFINITION. The flags of the block (spec/10_state.md R50): saturation, the enable bits, the interrupt bits and the IRQ
level. The block has no arithmetic condition codes.
-/
namespace Sys2Proof.Machine
open Sys2Proof

/-- sat_w(v + 1) (spec/00_scope.md R7). -/
def satInc {w : Nat} (v : BitVec w) : BitVec w :=
  if v = BitVec.allOnes w then v else v + 1

/-- The enable bit EN(c) of a class (R24, spec/40_sequencer.md R116). ID has no enable bit: nothing ever reads this value
change. -/
def Ctrl.en (c : Ctrl) : MsgClass → Bool
  | .id => true
  | .req => c.enReq
  | .wd => c.enWd
  | .data => c.enData

/-- The interrupt sources (R41, spec/60_exceptions.md R259). -/
inductive IntSource where
  | rxf | assigned | idFail | txnFail | ack | err
deriving DecidableEq, Repr

/-- The INTSTAT bit of a source (R41). -/
def IntSource.bit : IntSource → Nat
  | .rxf => 0 | .assigned => 1 | .idFail => 2 | .txnFail => 3 | .ack => 4 | .err => 5

/-- INTSTAT with the bit of a source set (R41). -/
def raiseInt (b : IntSource) (v : BitVec 6) : BitVec 6 := v ||| BitVec.twoPow 6 b.bit

/-- IRQ = ((INTSTAT & INTEN) != 0) (R43). -/
def irqLevel (h : HostRegs) : Bool := h.intstat &&& h.inten != 0

end Sys2Proof.Machine
end

