-- ==== Sys2Proof/Machine/Ops.lean ====
section
/-! DEFINITION. The shared operations over the state: group updates, the recording of events (the block's only "exception":
it has no traps, spec/60_exceptions.md R250, R261), frame emission, transactions, arbitration and the end of a step.
-/
namespace Sys2Proof.Machine
open Sys2Proof

/-! ### Group updates -/

def State.setHost (s : State) (h : HostRegs) : State := { s with host := h }
def State.setTable (s : State) (t : PerClass TableRow) : State := { s with table := t }
def State.setFrx (s : State) (f : Receiver) : State := { s with frx := f }
def State.setSeq (s : State) (q : Sequencer) : State := { s with seq := q }
def State.setOut (s : State) (o : Outputs) : State := { s with out := o }
def State.setInputs (s : State) (xs : List Input) : State := { s with inputs := xs }

/-- The transaction of class `c`. -/
def State.txn (s : State) (c : MsgClass) : Txn := s.seq.txn.get c

/-- The transaction of class `c` replaced. -/
def State.setTxn (s : State) (c : MsgClass) (t : Txn) : State :=
  s.setSeq { s.seq with txn := s.seq.txn.set c t }

/-- ASTATE replaced. -/
def State.setAState (s : State) (a : AState) : State := s.setSeq { s.seq with astate := a }

/-- An interrupt bit set (R41). -/
def State.raise (s : State) (b : IntSource) : State :=
  s.setHost { s.host with intstat := raiseInt b s.host.intstat }

/-! ### Events (spec/60_exceptions.md R251) -/

/-- The events and the two sequencer outcomes of R251. -/
inductive Event where
  | errType | errChk | errFrame | rxOvr | cmdErr | txnFail | idFail
deriving DecidableEq, Repr

/-- The event codes: labels, held by no register (R251). -/
def Event.code : Event → Nat
  | .errType => 1 | .errChk => 2 | .errFrame => 3 | .rxOvr => 4 | .cmdErr => 5 | .txnFail => 6 | .idFail => 7

/-- `count E`: what each event records, and nothing else (R251). This is all that "taking" an error does: no state is saved
and no control transferred (R261). -/
def countEvent (e : Event) (s : State) : State :=
  let h := s.host
  match e with
  | .errType => (s.setHost { h with cnt := { h.cnt with errType := satInc h.cnt.errType } }).raise .err
  | .errChk => (s.setHost { h with cnt := { h.cnt with errChk := satInc h.cnt.errChk } }).raise .err
  | .errFrame => (s.setHost { h with cnt := { h.cnt with errFrame := satInc h.cnt.errFrame } }).raise .err
  | .rxOvr => (s.setHost { h with rxOvr := true }).raise .err
  | .cmdErr => (s.setHost { h with cmdErr := true }).raise .err
  | .txnFail => (s.setHost { h with cnt := { h.cnt with txnFail := satInc h.cnt.txnFail } }).raise .txnFail
  | .idFail => s.raise .idFail

/-! ### Output streams (R49) -/

/-- emit TxFrame(f): the frame joins TXLOG whole (spec/43_framing_checksum.md R193). -/
def emitFrame (f : List Byte) (s : State) : State :=
  s.setOut { s.out with txlog := s.out.txlog ++ [f] }

/-- emit NvWrite(a) (spec/40_sequencer.md R131). -/
def emitNv (a : Addr) (s : State) : State :=
  s.setOut { s.out with nvlog := s.out.nvlog ++ [a] }

/-- The value a RegRead returns (spec/44_host_interface.md R220). -/
def emitRead (r : Word) (s : State) : State :=
  s.setOut { s.out with rdlog := s.out.rdlog ++ [r] }

/-! ### The table's read side: hardwired fields (spec/10_state.md R38, R40) -/

/-- PERIOD[c]: hardwired to 0 for ID and DATA (R38). -/
def State.period (s : State) : MsgClass → BitVec 16
  | .id => 0
  | .req => s.table.req.period
  | .wd => s.table.wd.period
  | .data => 0

/-- WAIT[c] (R39). -/
def State.wait (s : State) (c : MsgClass) : BitVec 16 := (s.table.get c).wait

/-- RETRY[c]: hardwired to 0 for ID (R40). -/
def State.retry (s : State) : MsgClass → Retry
  | .id => ⟨0, false, false⟩
  | .req => s.table.req.retry
  | .wd => s.table.wd.retry
  | .data => s.table.data.retry

/-! ### Transactions (spec/40_sequencer.md R112, R113, R121, R123) -/

/-- ComposeSeq(c), the frame a sequencer transaction sends (R113). -/
def composeSeq (s : State) : MsgClass → List Byte
  | .id => idReqFrame s.cfg s.host.idcfg.devtype s.host.idcfg.mod0 s.host.idcfg.mod1 s.host.idcfg.mod2
  | .req => baseFrame s.cfg .req .request s.host.addr (encBool s.host.sval.value) (seqBatt s)
  | .wd => baseFrame s.cfg .wd .request s.host.addr (encBool s.host.sval.value) (seqBatt s)
  | .data => baseFrame s.cfg .data .request s.host.addr (encBool s.host.sval.value) (seqBatt s)
where
  /-- The battery byte, carried iff BATT_EN = 1 (R113). -/
  seqBatt (s : State) : Option Byte :=
    if s.host.ctrl.battEn then some (encBatt s.host.sval.batt) else none

/-- The slot freed if it is held by class `c` (R112, R121). -/
def freeSlotOf (c : MsgClass) (s : State) : State :=
  if s.seq.infl = true ∧ s.seq.scls = c then s.setSeq { s.seq with infl := false } else s

/-- NewTxn(c): creates, or re-creates, the transaction of class `c` with a snapshot of its frame (R112). -/
def newTxn (c : MsgClass) (s : State) : State :=
  let s1 := freeSlotOf c s
  s1.setTxn c { s1.txn c with active := true, pend := true, sent := false, elap := 0, tf := composeSeq s c }

/-- EndTxn(c): removes the transaction of class `c` (R121). -/
def endTxn (c : MsgClass) (s : State) : State :=
  let s1 := s.setTxn c { s.txn c with active := false, pend := false, sent := false, elap := 0 }
  freeSlotOf c s1

/-- PCNT[c] <- 0. -/
def clearPcnt (c : MsgClass) (s : State) : State := s.setTxn c { s.txn c with pcnt := 0 }

/-- CancelAll(): every transaction ended, every period counter and the slot cleared (R123). -/
def cancelAll (s : State) : State :=
  let s1 := classes.foldl (fun s c => clearPcnt c (endTxn c s)) s
  s1.setSeq { s1.seq with infl := false, scls := .id, wcnt := 0 }

/-! ### End of step (spec/40_sequencer.md R114, spec/44_host_interface.md R233) -/

/-- Allowed(c): ID only in REQUESTED, the others only in ASSIGNED (R114). -/
def allowed (a : AState) : MsgClass → Bool
  | .id => a == .requested
  | .req => a == .assigned
  | .wd => a == .assigned
  | .data => a == .assigned

/-- The priority order of arbitration (R114, R129). -/
def priority : List MsgClass := [.id, .data, .wd, .req]

/-- Whether class `c` can be granted the slot: its frame is due and it is Allowed (R114). -/
def State.sendable (s : State) (c : MsgClass) : Bool := (s.txn c).pend && allowed s.seq.astate c

/-- The grant of the slot to class `c`: its snapshot is sent and the wait starts (R114). -/
def grant (c : MsgClass) (s : State) : State :=
  let t := s.txn c
  let s1 := emitFrame t.tf s
  let s2 := s1.setSeq { s1.seq with infl := true, scls := c, wcnt := 0 }
  s2.setTxn c { t with pend := false, sent := true, elap := if t.sent then t.elap else 0 }

/-- Arbitrate(): with the sequencer on and the slot free, the first sendable class in priority order is sent (R114). -/
def arbitrate (s : State) : State :=
  if s.host.ctrl.seqEn = true ∧ s.seq.infl = false then
    match priority.find? s.sendable with
    | some c => grant c s
    | none => s
  else s

/-- EndOfStep(): arbitration, then the IRQ level (R233). -/
def endOfStep (s : State) : State :=
  let s1 := arbitrate s
  s1.setOut { s1.out with irq := irqLevel s1.host }

end Sys2Proof.Machine
end

