-- ==== Sys2Proof/Machine/Sequencer.lean ====
section
/-! DEFINITION. The address-assignment sequencer and the retry/timeout engine (spec/40_sequencer.md): response matching, the
clocks of a Tick, and the commands TRIGGER, DATA_EVENT and UNASSIGN.
-/
namespace Sys2Proof.Machine
open Sys2Proof

/-! ### Responses (R119, R120) -/

/-- AcceptIdentification(a) (R120). -/
def acceptIdentification (a : Addr) (s : State) : State :=
  if s.seq.astate = .requested ∧ a ≠ s.cfg.unassigned then
    let s1 := (s.setHost { s.host with addr := a }).setAState .assigned
    let s2 := (emitNv a s1).raise .assigned
    clearPcnt .wd (clearPcnt .req (endTxn .id s2))
  else s

/-- MatchResponse(k, d, fb), called for every validated frame (R119). -/
def matchResponse (k : MsgClass) (d : Direction) (fb : List Byte) (s : State) : State :=
  if s.host.ctrl.seqEn = false ∨ d = .request ∨ (s.txn k).active = false ∨ (s.txn k).sent = false then s
  else if k = .id then acceptIdentification (frameAddr fb) s
  else if frameAddr fb = s.host.addr then (endTxn k s).raise .ack
  else s

/-! ### The clocks of a Tick (R115 to R118) -/

/-- One class of CadenceStep (R116). -/
def cadence (c : MsgClass) (s : State) : State :=
  if s.seq.astate = .assigned ∧ s.host.ctrl.en c = true ∧ s.period c ≠ 0 then
    let n := satInc (s.txn c).pcnt
    if s.period c ≤ n then newTxn c (clearPcnt c s)
    else s.setTxn c { s.txn c with pcnt := n }
  else s

/-- CadenceStep(): REQ, then WD (R116). -/
def cadenceStep (s : State) : State := cadence .wd (cadence .req s)

/-- One class of ElapsedStep (R117). -/
def elapse (c : MsgClass) (s : State) : State :=
  if (s.txn c).active = true ∧ (s.txn c).sent = true then
    s.setTxn c { s.txn c with elap := satInc (s.txn c).elap }
  else s

/-- ElapsedStep() (R117). -/
def elapsedStep (s : State) : State := classes.foldl (fun s c => elapse c s) s

/-- The retry test of Expire: REN, and the window unbounded or not yet passed (R118, decision D14). -/
def retryDue (s : State) (c : MsgClass) : Bool :=
  (s.retry c).ren && ((s.retry c).rinf || (s.txn c).elap.toNat ≤ (s.retry c).rwin.toNat)

/-- Expire(c): the response wait of the in-flight request has run out (R118). -/
def expire (c : MsgClass) (s : State) : State :=
  let s1 := s.setSeq { s.seq with infl := false }
  if retryDue s c then s1.setTxn c { s1.txn c with pend := true }
  else if c = .id then countEvent .idFail ((endTxn c s1).setAState .unassigned)
  else countEvent .txnFail (endTxn c s1)

/-- WaitStep() (R117). -/
def waitStep (s : State) : State :=
  if s.seq.infl = true then
    let s1 := s.setSeq { s.seq with wcnt := satInc s.seq.wcnt }
    if s1.wait s1.seq.scls ≤ s1.seq.wcnt then expire s1.seq.scls s1 else s1
  else s

/-- Tick (R115). -/
def tickStep (s : State) : State :=
  endOfStep (if s.host.ctrl.seqEn then waitStep (elapsedStep (cadenceStep s)) else s)

/-! ### Event commands (R111, R122, R123) -/

/-- TRIGGER (R111). -/
def triggerStep (s : State) : State :=
  endOfStep (if s.host.ctrl.seqEn = true ∧ s.seq.astate = .unassigned then newTxn .id (s.setAState .requested) else s)

/-- DATA_EVENT (R122). -/
def dataEventStep (s : State) : State :=
  endOfStep
    (if s.host.ctrl.seqEn = true ∧ s.seq.astate = .assigned ∧ s.host.ctrl.enData = true then newTxn .data s else s)

/-- UNASSIGN (R123). -/
def unassignStep (s : State) : State :=
  let s1 := cancelAll s
  let s2 := (s1.setHost { s1.host with addr := s1.cfg.unassigned }).setAState .unassigned
  endOfStep (emitNv s2.cfg.unassigned s2)

/-! ### Meanings -/

/-- The meaning of Tick (R115 to R118). -/
def execTick (s : State) : Host.Outcome State Fault Refusal := .next (tickStep s)

/-- The meaning of TRIGGER (R111). -/
def execTrigger (s : State) : Host.Outcome State Fault Refusal := .next (triggerStep s)

/-- The meaning of DATA_EVENT (R122). -/
def execDataEvent (s : State) : Host.Outcome State Fault Refusal := .next (dataEventStep s)

/-- The meaning of UNASSIGN (R123). -/
def execUnassign (s : State) : Host.Outcome State Fault Refusal := .next (unassignStep s)

end Sys2Proof.Machine
end

