-- ==== Sys2Proof/Machine/Receiver.lean ====
section
/-! DEFINITION. The receiver (spec/43_framing_checksum.md §2): the byte-serial scan, delivery, and the meanings of RxByte and
of the wire frames.
-/
namespace Sys2Proof.Machine
open Sys2Proof

/-- Bytes 4j to 4j+3 of a frame in one RXBUF register; bytes past its end read 0 (spec/10_state.md R36). -/
def rxbufWord (fb : List Byte) (j : Nat) : Word :=
  packLanes (fb.getD (4 * j) 0) (fb.getD (4 * j + 1) 0) (fb.getD (4 * j + 2) 0) (fb.getD (4 * j + 3) 0)

/-- The host copy of a delivered frame (R200). -/
def holdFrame (fb : List Byte) (k : MsgClass) (d : Direction) (h : HostRegs) : HostRegs :=
  { h with
    rxbuf0 := rxbufWord fb 0
    rxbuf1 := rxbufWord fb 1
    rxbuf2 := rxbufWord fb 2
    rxinfo := ⟨BitVec.ofNat 4 fb.length, k, d, fb.length == 10⟩
    rxfValid := true
    intstat := raiseInt .rxf h.intstat }

/-- Dispatch of the validated frame `fb` of class `k` and direction `d`: the host copy, or an overrun, then the sequencer
(R200, R201). -/
def dispatchFrame (fb : List Byte) (k : MsgClass) (d : Direction) (s : State) : State :=
  let s1 := if s.host.rxfValid then countEvent .rxOvr s else s.setHost (holdFrame fb k d s.host)
  matchResponse k d fb s1

/-- Deliver(n): the frame is RB[0 .. n-1] (R200). -/
def deliver (n : Nat) (s : State) : State :=
  dispatchFrame (s.frx.rb.toList.take n) s.frx.rk s.frx.rd s

/-- Start(b): a byte where a frame would start (R195). -/
def startFrame (b : Byte) (s : State) : State :=
  if b = DELIM then s
  else match classify s.cfg.tc b with
    | none =>
      let s1 := countEvent .errType s
      s1.setFrx { s1.frx with rxs := .hunt }
    | some (k, d) =>
      s.setFrx { rxs := .collect, rb := s.frx.rb.setIfInBounds 0 b, rn := 1, rk := k, rd := d, rsd := false }

/-- Collect(b): a byte inside a frame (R196). -/
def collectByte (b : Byte) (s : State) : State :=
  let rb := s.frx.rb.setIfInBounds s.frx.rn b
  let n := s.frx.rn + 1
  let cand := b == DELIM && (candLens s.frx.rk).contains n
  if cand && validAt s.cfg.chk rb.toList n then
    deliver n (s.setFrx { s.frx with rb := rb, rxs := .idle, rn := 0, rsd := false })
  else if n = maxLen s.frx.rk then
    let s1 := s.setFrx { s.frx with rb := rb, rn := 0, rsd := false }
    if b = DELIM then
      let s2 := countEvent .errChk s1
      s2.setFrx { s2.frx with rxs := .idle }
    else if s.frx.rsd then
      let s2 := countEvent .errChk s1
      startFrame b (s2.setFrx { s2.frx with rxs := .idle })
    else
      let s2 := countEvent .errFrame s1
      s2.setFrx { s2.frx with rxs := .hunt }
  else if cand then s.setFrx { s.frx with rb := rb, rn := n, rsd := true }
  else s.setFrx { s.frx with rb := rb, rn := n }

/-- A byte in HUNT: discarded; a 0x0D ends the hunt (R194, R197). -/
def huntByte (b : Byte) (s : State) : State :=
  if b = DELIM then s.setFrx { s.frx with rxs := .idle } else s

/-- The receiver's part of RxByte(b) (R194). -/
def receiveByte (b : Byte) (s : State) : State :=
  if s.host.ctrl.rxEn then
    match s.frx.rxs with
    | .hunt => huntByte b s
    | .idle => startFrame b s
    | .collect => collectByte b s
  else s

/-- RxByte(b) (R194). -/
def rxByteStep (b : Byte) (s : State) : State := endOfStep (receiveByte b s)

/-- A stretch of the wire: one RxByte per byte, in order (spec/30_encoding.md R96). -/
def receiveBytes (bs : List Byte) (s : State) : State := bs.foldl (fun s b => rxByteStep b s) s

/-- Receiver disable, on RX_EN 1 → 0 (R202). -/
def receiverDisable (s : State) : State :=
  s.setFrx { s.frx with rxs := .idle, rn := 0, rsd := false }

/-! ### Meanings

A wire frame arrives byte by byte (spec/30_encoding.md R96, R97; log entry 2). -/

/-- The meaning of RxByte(b) (R194 to R197). -/
def execRxByte (b : Byte) (s : State) : Host.Outcome State Fault Refusal := .next (rxByteStep b s)

/-- The meaning of ID_REQ: an identification request arrives (R82, R200). -/
def execIdReq (devtype mod0 mod1 mod2 : Byte) (s : State) : Host.Outcome State Fault Refusal :=
  .next (receiveBytes (idReqFrame s.cfg devtype mod0 mod1 mod2) s)

/-- The meaning of ID_RESP: an identification response arrives (R83, R120, R200). -/
def execIdResp (a : Addr) (s : State) : Host.Outcome State Fault Refusal :=
  .next (receiveBytes (idRespFrame s.cfg a) s)

/-- The meaning of REQ_REQ: an actuator request arrives (R85, R200). -/
def execReqReq (a : Addr) (val : Byte) (batt : Option Byte) (s : State) : Host.Outcome State Fault Refusal :=
  .next (receiveBytes (baseFrame s.cfg .req .request a val batt) s)

/-- The meaning of REQ_RESP: an actuator response arrives (R85, R119, R200). -/
def execReqResp (a : Addr) (val : Byte) (batt : Option Byte) (s : State) : Host.Outcome State Fault Refusal :=
  .next (receiveBytes (baseFrame s.cfg .req .response a val batt) s)

/-- The meaning of WD_REQ: a watchdog request arrives (R86, R200). -/
def execWdReq (a : Addr) (val : Byte) (batt : Option Byte) (s : State) : Host.Outcome State Fault Refusal :=
  .next (receiveBytes (baseFrame s.cfg .wd .request a val batt) s)

/-- The meaning of WD_RESP: a watchdog response arrives (R86, R119, R200). -/
def execWdResp (a : Addr) (val : Byte) (batt : Option Byte) (s : State) : Host.Outcome State Fault Refusal :=
  .next (receiveBytes (baseFrame s.cfg .wd .response a val batt) s)

/-- The meaning of DATA_REQ: a data report arrives (R87, R200). -/
def execDataReq (a : Addr) (val : Byte) (batt : Option Byte) (s : State) : Host.Outcome State Fault Refusal :=
  .next (receiveBytes (baseFrame s.cfg .data .request a val batt) s)

/-- The meaning of DATA_RESP: a data acknowledgement arrives (R87, R119, R200). -/
def execDataResp (a : Addr) (val : Byte) (batt : Option Byte) (s : State) : Host.Outcome State Fault Refusal :=
  .next (receiveBytes (baseFrame s.cfg .data .response a val batt) s)

/-- The meaning of UNKNOWN_TYPE: a byte that is no type code arrives (R91, R195). -/
def execUnknownType (code : Byte) (s : State) : Host.Outcome State Fault Refusal :=
  .next (receiveBytes [code] s)

end Sys2Proof.Machine
end

