-- ==== Sys2Proof/Machine/HostInterface.lean ====
section
/-! DEFINITION. The host register interface (spec/44_host_interface.md), the RTD register (spec/41_response_type.md R162, R163)
and the host transmit commands (spec/42_field_encoding.md §2).
-/
namespace Sys2Proof.Machine
open Sys2Proof

/-! ### Register reads (R220) -/

/-- The two-bit code of ASTATE (spec/10_state.md R25, R45). -/
def AState.toBits : AState → BitVec 2
  | .unassigned => 0 | .requested => 1 | .assigned => 2

/-- enc(RXS) (R25, R220). -/
def RxState.toBits : RxState → BitVec 2
  | .idle => 0 | .collect => 1 | .hunt => 2

/-- CTRL[5:0] (R24). -/
def Ctrl.toBits (c : Ctrl) : BitVec 6 :=
  BitVec.ofBool c.enData ++ BitVec.ofBool c.enWd ++ BitVec.ofBool c.enReq ++ BitVec.ofBool c.battEn
    ++ BitVec.ofBool c.rxEn ++ BitVec.ofBool c.seqEn

/-- The PEND or ACTIVE bits, class c at bit c (R25). -/
def classBits (p : MsgClass → Bool) : BitVec 4 :=
  BitVec.ofBool (p .data) ++ BitVec.ofBool (p .wd) ++ BitVec.ofBool (p .req) ++ BitVec.ofBool (p .id)

/-- STATUS, a view of internal state (R25, R220). -/
def statusWord (s : State) : Word :=
  (0 : BitVec 14) ++ BitVec.ofBool s.host.cmdErr ++ classBits (fun c => (s.txn c).active)
    ++ classBits (fun c => (s.txn c).pend) ++ s.frx.rxs.toBits ++ BitVec.ofBool s.host.rxOvr
    ++ BitVec.ofBool s.host.rxfValid ++ (if s.seq.infl then s.seq.scls.toBits else 0)
    ++ BitVec.ofBool s.seq.infl ++ s.seq.astate.toBits

/-- The RTD view: RTD_IN, its derivation and its classification (spec/41_response_type.md R162). -/
def rtdWord (tc : TypeCodes) (rtdIn : Byte) : Word :=
  let r := classify tc rtdIn
  (0 : BitVec 12) ++ ((r.map (fun x => x.1.toBits)).getD 0 : BitVec 2)
    ++ BitVec.ofBool (r.any (fun x => x.2 == .response)) ++ BitVec.ofBool (r.any (fun x => x.2 == .request))
    ++ deriveResponse rtdIn ++ rtdIn

/-- TXCFG as it reads (R33, R220). -/
def TxCfg.toWord (t : TxCfg) : Word :=
  (0 : BitVec 8) ++ t.batt ++ t.value ++ (0 : BitVec 4) ++ BitVec.ofBool t.bp ++ BitVec.ofBool t.dir.toBool ++ t.kind.toBits

/-- RXINFO as it reads (R35, R220). -/
def RxInfo.toWord (i : RxInfo) : Word :=
  (0 : BitVec 24) ++ BitVec.ofBool i.hasBatt ++ BitVec.ofBool i.dir.toBool ++ i.kind.toBits ++ i.len

/-- RETRY[c] as it reads (R40, R220). -/
def Retry.toWord (r : Retry) : Word :=
  (0 : BitVec 14) ++ BitVec.ofBool r.rinf ++ BitVec.ofBool r.ren ++ r.rwin

/-- The value RegRead returns (R220, R62). -/
def readReg (s : State) : Reg → Word
  | .ctrl => s.host.ctrl.toBits.setWidth 32
  | .status => statusWord s
  | .addr => addrWord s.host.addr
  | .idcfg => packLanes s.host.idcfg.devtype s.host.idcfg.mod0 s.host.idcfg.mod1 s.host.idcfg.mod2
  | .sval => packLanes s.host.sval.value s.host.sval.batt 0 0
  | .tcodes => packLanes s.cfg.tc.code.id s.cfg.tc.code.req s.cfg.tc.code.wd s.cfg.tc.code.data
  | .cmd => 0
  | .cnt => packLanes s.host.cnt.errType s.host.cnt.errChk s.host.cnt.errFrame s.host.cnt.txnFail
  | .rtd => rtdWord s.cfg.tc s.host.rtdIn
  | .txcfg => s.host.txcfg.toWord
  | .txaddr => addrWord s.host.txaddr
  | .rxinfo => s.host.rxinfo.toWord
  | .rxbuf0 => s.host.rxbuf0
  | .rxbuf1 => s.host.rxbuf1
  | .rxbuf2 => s.host.rxbuf2
  | .period c => (s.period c).setWidth 32
  | .wait c => (s.wait c).setWidth 32
  | .retry c => (s.retry c).toWord
  | .intstat => s.host.intstat.setWidth 32
  | .inten => s.host.inten.setWidth 32
  | .reserved _ => 0

/-- RegRead: the value is returned, the step ends (R220). -/
def regReadStep (r : Reg) (s : State) : State := endOfStep (emitRead (readReg s r) s)

/-! ### Host transmit (spec/42_field_encoding.md R174 to R176) -/

/-- ComposeHost(raw) (R174). -/
def composeHost (raw : Bool) (s : State) : List Byte :=
  let t := s.host.txcfg
  match t.kind, t.dir with
  | .id, .request => idReqFrame s.cfg s.host.idcfg.devtype s.host.idcfg.mod0 s.host.idcfg.mod1 s.host.idcfg.mod2
  | .id, .response => idRespFrame s.cfg s.host.txaddr
  | k, d =>
    baseFrame s.cfg k d s.host.txaddr (if raw then t.value else encBool t.value)
      (if t.bp then some (encBatt t.batt) else none)

/-- TX_RAW (R175). -/
def txRawStep (s : State) : State := endOfStep (emitFrame (composeHost true s) s)

/-- TX_LOGICAL (R176). -/
def txLogicalStep (s : State) : State := endOfStep (emitFrame (composeHost false s) s)

/-! ### Housekeeping commands (R224 to R227) -/

/-- NOP (R224). -/
def nopStep (s : State) : State := endOfStep s

/-- RX_POP (R225). -/
def rxPopStep (s : State) : State := endOfStep (s.setHost { s.host with rxfValid := false })

/-- CLR_ERR (R226). -/
def clrErrStep (s : State) : State :=
  endOfStep (s.setHost { s.host with cnt := ⟨0, 0, 0, 0⟩, rxOvr := false, cmdErr := false })

/-- A reserved opcode (R227). -/
def reservedStep (s : State) : State := endOfStep (countEvent .cmdErr s)

/-- CmdWrite(v): command dispatch (R223). -/
def cmdWrite (v : Word) (s : State) : State :=
  match commandOf v with
  | .nop => nopStep s
  | .trigger => triggerStep s
  | .dataEvent => dataEventStep s
  | .rxPop => rxPopStep s
  | .unassign => unassignStep s
  | .clrErr => clrErrStep s
  | .txRaw => txRawStep s
  | .txLogical => txLogicalStep s
  | .reserved _ => reservedStep s

/-! ### Register writes (R221, R222, R228 to R232) -/

/-- The fields of a CTRL write: v[5:0] (R24, R222). -/
def ctrlOf (v : Word) : Ctrl :=
  ⟨v.getLsbD 0, v.getLsbD 1, v.getLsbD 2, v.getLsbD 3, v.getLsbD 4, v.getLsbD 5⟩

/-- SEQ_EN falls: everything is cancelled and REQUESTED returns to UNASSIGNED (spec/40_sequencer.md R124). -/
def seqDisable (s : State) : State :=
  let s1 := cancelAll s
  if s1.seq.astate = .requested then s1.setAState .unassigned else s1

/-- A class enable falls: its transaction ends and its period counter is cleared (spec/40_sequencer.md R125). -/
def classTransition (old new : Ctrl) (s : State) (c : MsgClass) : State :=
  if old.en c = true ∧ new.en c = false then clearPcnt c (endTxn c s) else s

/-- CtrlWrite(v) (R222). -/
def ctrlWrite (v : Word) (s : State) : State :=
  let old := s.host.ctrl
  let new := ctrlOf v
  let s1 := s.setHost { s.host with ctrl := new }
  let s2 := if old.seqEn = true ∧ new.seqEn = false then seqDisable s1 else s1
  let s3 := if old.rxEn = true ∧ new.rxEn = false then receiverDisable s2 else s2
  [MsgClass.req, MsgClass.wd, MsgClass.data].foldl (classTransition old new) s3

/-- The fields of a TXCFG write: v & 0x00FFFF0F (R33, R231). -/
def txcfgOf (v : Word) : TxCfg :=
  ⟨MsgClass.ofBits (v.extractLsb' 0 2), Direction.ofBool (v.getLsbD 2), v.getLsbD 3, lane v 1, lane v 2⟩

/-- The fields of a RETRY write (R40, R230). -/
def retryOf (v : Word) : Retry := ⟨v.extractLsb' 0 16, v.getLsbD 16, v.getLsbD 17⟩

/-- A table row replaced. -/
def State.setRow (s : State) (c : MsgClass) (r : TableRow) : State := s.setTable (s.table.set c r)

/-- A PERIOD write: hardwired for ID and DATA (R230). -/
def periodWrite (c : MsgClass) (v : Word) (s : State) : State :=
  if c = .req ∨ c = .wd then s.setRow c { s.table.get c with period := v.extractLsb' 0 16 } else s

/-- A WAIT write (R230). -/
def waitWrite (c : MsgClass) (v : Word) (s : State) : State :=
  s.setRow c { s.table.get c with wait := v.extractLsb' 0 16 }

/-- A RETRY write: hardwired for ID (R230). -/
def retryWrite (c : MsgClass) (v : Word) (s : State) : State :=
  if c = .id then s else s.setRow c { s.table.get c with retry := retryOf v }

/-- The register part of a write, less CMD, which runs its command's own step (R221, R228 to R232). -/
def writeReg (r : Reg) (v : Word) (s : State) : State :=
  match r with
  | .ctrl => ctrlWrite v s
  | .idcfg => s.setHost { s.host with idcfg := ⟨lane v 0, lane v 1, lane v 2, lane v 3⟩ }
  | .sval => s.setHost { s.host with sval := ⟨lane v 0, lane v 1⟩ }
  | .rtd => s.setHost { s.host with rtdIn := lane v 0 }
  | .txcfg => s.setHost { s.host with txcfg := txcfgOf v }
  | .txaddr => s.setHost { s.host with txaddr := wordAddr v }
  | .period c => periodWrite c v s
  | .wait c => waitWrite c v s
  | .retry c => retryWrite c v s
  | .intstat => s.setHost { s.host with intstat := s.host.intstat &&& ~~~(v.extractLsb' 0 6) }
  | .inten => s.setHost { s.host with inten := v.extractLsb' 0 6 }
  | .status | .addr | .tcodes | .cmd | .cnt | .rxinfo | .rxbuf0 | .rxbuf1 | .rxbuf2 | .reserved _ => s

/-- RegWrite: CMD runs its command, which ends the step itself; every other write ends the step once (R221). -/
def regWriteStep (r : Reg) (v : Word) (s : State) : State :=
  if r = .cmd then cmdWrite v s else endOfStep (writeReg r v s)

/-! ### Meanings -/

/-- The meaning of RegRead(off) (R220). -/
def execRegRead (r : Reg) (s : State) : Host.Outcome State Fault Refusal := .next (regReadStep r s)

/-- The meaning of RegWrite(off, v) (R221). -/
def execRegWrite (r : Reg) (v : Word) (s : State) : Host.Outcome State Fault Refusal := .next (regWriteStep r v s)

/-- The meaning of NOP (R224). -/
def execNop (s : State) : Host.Outcome State Fault Refusal := .next (nopStep s)

/-- The meaning of RX_POP (R225). -/
def execRxPop (s : State) : Host.Outcome State Fault Refusal := .next (rxPopStep s)

/-- The meaning of CLR_ERR (R226). -/
def execClrErr (s : State) : Host.Outcome State Fault Refusal := .next (clrErrStep s)

/-- The meaning of TX_RAW (R175). -/
def execTxRaw (s : State) : Host.Outcome State Fault Refusal := .next (txRawStep s)

/-- The meaning of TX_LOGICAL (R176). -/
def execTxLogical (s : State) : Host.Outcome State Fault Refusal := .next (txLogicalStep s)

/-- The meaning of a reserved opcode 0x06 to 0x0F (R94, R227): the opcode itself is not kept. -/
def execReservedCmdLow (_op : Byte) (s : State) : Host.Outcome State Fault Refusal := .next (reservedStep s)

/-- The meaning of a reserved opcode 0x12 to 0xFF (R94, R227): the opcode itself is not kept. -/
def execReservedCmdHigh (_op : Byte) (s : State) : Host.Outcome State Fault Refusal := .next (reservedStep s)

end Sys2Proof.Machine
end

