-- ==== Sys2Proof/Machine/Reset.lean ====
section
/-! DEFINITION. The Reset event (spec/70_reset_and_hazards.md R280 to R282).
-/
namespace Sys2Proof.Machine
open Sys2Proof

/-- Reset(NV_ADDR): every state element at its reset value, then EndOfStep. The output streams are not block state and stay
(R49, R280); the configuration and the environment's inputs are none of the block's. -/
def resetStep (nv : Addr) (s : State) : State :=
  let r := State.resetWith s.cfg nv
  endOfStep { r with out := { s.out with irq := false }, inputs := s.inputs }

/-- The meaning of Reset(NV_ADDR) (R280). -/
def execReset (nv : Addr) (s : State) : Host.Outcome State Fault Refusal := .next (resetStep nv s)

end Sys2Proof.Machine
end

