-- ==== Sys2Proof/Machine/Dispatch.lean ====
section
/-! DEFINITION. The meaning of every instruction, one arm per constructor.
-/
namespace Sys2Proof.Machine
open Sys2Proof

def exec (i : Instr) (s : State) : Host.Outcome State Fault Refusal :=
  match i with
  -- wire frames
  | .idReq devtype mod0 mod1 mod2 => Sys2Proof.Machine.execIdReq devtype mod0 mod1 mod2 s
  | .idResp a => Sys2Proof.Machine.execIdResp a s
  | .reqReq a val batt => Sys2Proof.Machine.execReqReq a val batt s
  | .reqResp a val batt => Sys2Proof.Machine.execReqResp a val batt s
  | .wdReq a val batt => Sys2Proof.Machine.execWdReq a val batt s
  | .wdResp a val batt => Sys2Proof.Machine.execWdResp a val batt s
  | .dataReq a val batt => Sys2Proof.Machine.execDataReq a val batt s
  | .dataResp a val batt => Sys2Proof.Machine.execDataResp a val batt s
  | .unknownType code => Sys2Proof.Machine.execUnknownType code s
  -- host command words
  | .nop => Sys2Proof.Machine.execNop s
  | .trigger => Sys2Proof.Machine.execTrigger s
  | .dataEvent => Sys2Proof.Machine.execDataEvent s
  | .rxPop => Sys2Proof.Machine.execRxPop s
  | .unassign => Sys2Proof.Machine.execUnassign s
  | .clrErr => Sys2Proof.Machine.execClrErr s
  | .txRaw => Sys2Proof.Machine.execTxRaw s
  | .txLogical => Sys2Proof.Machine.execTxLogical s
  | .reservedCmdLow op => Sys2Proof.Machine.execReservedCmdLow op s
  | .reservedCmdHigh op => Sys2Proof.Machine.execReservedCmdHigh op s
  -- input events
  | .rxByte b => Sys2Proof.Machine.execRxByte b s
  | .tick => Sys2Proof.Machine.execTick s
  | .reset nv => Sys2Proof.Machine.execReset nv s
  | .regRead r => Sys2Proof.Machine.execRegRead r s
  | .regWrite r v => Sys2Proof.Machine.execRegWrite r v s

end Sys2Proof.Machine
end

