-- ==== Sys2Proof/Decode.lean ====
section
/-! DEFINITION. The decoder, total on every raw input and rejecting by name, and the encoder, both from the encodings of
spec/30_encoding.md and the register map of spec/10_state.md R23, R37.
-/
namespace Sys2Proof
open Sys2Proof.Machine

/-- Why a raw input is no instruction. -/
inductive Reject where
  /-- a register access that is not 32 bits wide (R61) -/
  | accessWidth (width : Nat)
  /-- a register access at an offset that is no multiple of 4 (R61) -/
  | accessMisaligned (off : Nat)
  /-- a register access at an offset of 0x100 or above (R61) -/
  | accessOutsideWindow (off : Nat)
  /-- no byte on the wire -/
  | wireEmpty
  /-- a 0x0D where a frame would start: filler (R91, R195) -/
  | wireFiller
  /-- the stream starts with a type code, but no candidate length validates (R99) -/
  | wireNoFrame (type : Byte)
deriving DecidableEq, Repr

/-- What the decoder answers: an instruction with the raw input left over behind it, or a named rejection. -/
inductive Decoded where
  | instr (i : Instr) (rest : List Input)
  | reject (r : Reject)
deriving DecidableEq, Repr

/-! ### Register offsets (spec/10_state.md R23, R37) -/

/-- The register at an aligned offset below 0x100 (R23, R37). -/
def regAt (off : Nat) : Reg :=
  match off / 4 with
  | 0 => .ctrl | 1 => .status | 2 => .addr | 3 => .idcfg
  | 4 => .sval | 5 => .tcodes | 6 => .cmd | 7 => .cnt
  | 8 => .rtd | 9 => .txcfg | 10 => .txaddr | 11 => .rxinfo
  | 12 => .rxbuf0 | 13 => .rxbuf1 | 14 => .rxbuf2
  | 16 => .period .id | 17 => .wait .id | 18 => .retry .id
  | 20 => .period .req | 21 => .wait .req | 22 => .retry .req
  | 24 => .period .wd | 25 => .wait .wd | 26 => .retry .wd
  | 28 => .period .data | 29 => .wait .data | 30 => .retry .data
  | 32 => .intstat | 33 => .inten
  | _ => .reserved (BitVec.ofNat 8 off)

/-- The offset of a class's block in the table (R37). -/
def tableBase : MsgClass → Nat
  | .id => 0x40 | .req => 0x50 | .wd => 0x60 | .data => 0x70

/-- The offset of a register (R23, R37). -/
def regOffset : Reg → Nat
  | .ctrl => 0x00 | .status => 0x04 | .addr => 0x08 | .idcfg => 0x0C
  | .sval => 0x10 | .tcodes => 0x14 | .cmd => 0x18 | .cnt => 0x1C
  | .rtd => 0x20 | .txcfg => 0x24 | .txaddr => 0x28 | .rxinfo => 0x2C
  | .rxbuf0 => 0x30 | .rxbuf1 => 0x34 | .rxbuf2 => 0x38
  | .period c => tableBase c
  | .wait c => tableBase c + 0x4
  | .retry c => tableBase c + 0x8
  | .intstat => 0x80 | .inten => 0x84
  | .reserved off => off.toNat

/-- The access check: 32 bits, aligned, inside the window (R61). -/
def accessReject (width off : Nat) : Option Reject :=
  if width ≠ 32 then some (.accessWidth width)
  else if off % 4 ≠ 0 then some (.accessMisaligned off)
  else if off ≥ 0x100 then some (.accessOutsideWindow off)
  else none

/-! ### Commands and frames -/

/-- The instruction of a command (R93, R94); the two ranges of reserved opcodes are two rows of the table. -/
def commandInstr : Command → Instr
  | .nop => .nop
  | .trigger => .trigger
  | .dataEvent => .dataEvent
  | .rxPop => .rxPop
  | .unassign => .unassign
  | .clrErr => .clrErr
  | .txRaw => .txRaw
  | .txLogical => .txLogical
  | .reserved op => if op.toNat < 0x10 then .reservedCmdLow op else .reservedCmdHigh op

/-- The battery byte of a base-shape frame: present iff the frame is 10 bytes long (R84). -/
def frameBatt (fb : List Byte) : Option Byte :=
  if fb.length = 10 then some (fb.getD 6 0) else none

/-- Decode(fb), the field view of a validated frame (R177). -/
def frameInstr (k : MsgClass) (d : Direction) (fb : List Byte) : Instr :=
  match k, d with
  | .id, .request => .idReq (fb.getD 1 0) (fb.getD 2 0) (fb.getD 3 0) (fb.getD 4 0)
  | .id, .response => .idResp (frameAddr fb)
  | .req, .request => .reqReq (frameAddr fb) (fb.getD 5 0) (frameBatt fb)
  | .req, .response => .reqResp (frameAddr fb) (fb.getD 5 0) (frameBatt fb)
  | .wd, .request => .wdReq (frameAddr fb) (fb.getD 5 0) (frameBatt fb)
  | .wd, .response => .wdResp (frameAddr fb) (fb.getD 5 0) (frameBatt fb)
  | .data, .request => .dataReq (frameAddr fb) (fb.getD 5 0) (frameBatt fb)
  | .data, .response => .dataResp (frameAddr fb) (fb.getD 5 0) (frameBatt fb)

/-- Whether a frame ends after `n` bytes of the stream: byte n-1 is the delimiter and the checksum is valid (R99, R196). -/
def endsAt (c : Checksum) (bs : List Byte) (n : Nat) : Bool :=
  n ≤ bs.length && bs.getD (n - 1) 0 == DELIM && validAt c bs n

/-- The stretch of the wire left over, as raw input. -/
def wireRest (bs : List Byte) : List Input :=
  if bs = [] then [] else [.wire bs]

/-- The wire decoder: the type byte gives the class, the class the candidate lengths, and the first candidate whose byte is
0x0D and whose checksum is valid ends the frame (R99). -/
def decodeWire (cfg : Config) (bs : List Byte) : Decoded :=
  match bs with
  | [] => .reject .wireEmpty
  | t :: rest =>
    match classify cfg.tc t with
    | none => if t = DELIM then .reject .wireFiller else .instr (.unknownType t) (wireRest rest)
    | some (k, d) =>
      match (candLens k).find? (endsAt cfg.chk bs) with
      | some n => .instr (frameInstr k d (bs.take n)) (wireRest (bs.drop n))
      | none => .reject (.wireNoFrame t)

/-- The decoder, total on raw inputs. -/
def decode (cfg : Config) : Input → Decoded
  | .reset nv => .instr (.reset nv) []
  | .regRead width off =>
    match accessReject width off with
    | some r => .reject r
    | none => .instr (.regRead (regAt off)) []
  | .regWrite width off v =>
    match accessReject width off with
    | some r => .reject r
    | none => if regAt off = .cmd then .instr (commandInstr (commandOf v)) [] else .instr (.regWrite (regAt off) v) []
  | .rxByte b => .instr (.rxByte b) []
  | .tick => .instr .tick []
  | .wire bs => decodeWire cfg bs

/-! ### The encoder -/

/-- A command word written to CMD: bits 31:8 are ignored and written as 0 (R92). -/
def commandInput (op : Byte) : Input := .regWrite 32 0x18 (op.setWidth 32)

/-- The raw input that spells an instruction (R81 to R87, R93, R94; spec/00_scope.md R9). -/
def encode (cfg : Config) : Instr → Input
  | .idReq devtype mod0 mod1 mod2 => .wire (idReqFrame cfg devtype mod0 mod1 mod2)
  | .idResp a => .wire (idRespFrame cfg a)
  | .reqReq a val batt => .wire (baseFrame cfg .req .request a val batt)
  | .reqResp a val batt => .wire (baseFrame cfg .req .response a val batt)
  | .wdReq a val batt => .wire (baseFrame cfg .wd .request a val batt)
  | .wdResp a val batt => .wire (baseFrame cfg .wd .response a val batt)
  | .dataReq a val batt => .wire (baseFrame cfg .data .request a val batt)
  | .dataResp a val batt => .wire (baseFrame cfg .data .response a val batt)
  | .unknownType code => .wire [code]
  | .nop => commandInput 0x00
  | .trigger => commandInput 0x01
  | .dataEvent => commandInput 0x02
  | .rxPop => commandInput 0x03
  | .unassign => commandInput 0x04
  | .clrErr => commandInput 0x05
  | .txRaw => commandInput 0x10
  | .txLogical => commandInput 0x11
  | .reservedCmdLow op => commandInput op
  | .reservedCmdHigh op => commandInput op
  | .rxByte b => .rxByte b
  | .tick => .tick
  | .reset nv => .reset nv
  | .regRead r => .regRead 32 (regOffset r)
  | .regWrite r v => .regWrite 32 (regOffset r) v

/-! ### Table words -/

/-- Byte `i` of a table word, counted from its least significant bit. -/
def tableByte (w i : Nat) : Byte := BitVec.ofNat 8 (w / 256 ^ i)

/-- A table word as raw input. Rows of up to 32 bits are host command words, written to CMD; longer rows are wire frames of
nbits/8 bytes, byte 0 in bits 7:0 (log entry 4). -/
def tableWordInput (nbits w : Nat) : Input :=
  if nbits ≤ 32 then .regWrite 32 0x18 (BitVec.ofNat 32 w)
  else .wire ((List.range (nbits / 8)).map (tableByte w))

/-- The instruction the decoder reads from a table word, under the block's configuration. -/
def decodeTableWord (nbits w : Nat) : Option Instr :=
  match decode Config.block (tableWordInput nbits w) with
  | .instr i _ => some i
  | .reject _ => none

end Sys2Proof
end

