-- ==== Sys2Proof/Machine/Fetch.lean ====
section
/-! DEFINITION. Fetching the next instruction from the input events the environment has lined up.
-/
namespace Sys2Proof.Machine
open Sys2Proof

/-- What follows a rejected input. A refused register access has no step (spec/20_memory.md R61). A stretch of the wire that
starts with no whole frame is received byte by byte (spec/43_framing_checksum.md R194; log entry 3). -/
def fetchRejected (r : Reject) (x : Input) (s : State) : Fetched :=
  match r with
  | .accessWidth w => .refuse (.accessWidth w)
  | .accessMisaligned off => .refuse (.accessMisaligned off)
  | .accessOutsideWindow off => .refuse (.accessOutsideWindow off)
  | .wireEmpty | .wireFiller | .wireNoFrame _ =>
    match x with
    | .wire (b :: bs) => .run (.rxByte b) (s.setInputs (wireRest bs ++ s.inputs))
    | _ => .idle s

/-- The head of the inputs, decoded; what the decoder leaves over goes back to the head. With no input the block waits
(spec/60_exceptions.md R270; log entry 1). -/
def fetch (s : State) : Fetched :=
  match s.inputs with
  | [] => .idle s
  | x :: rest =>
    let s1 := s.setInputs rest
    match decode s.cfg x with
    | .instr i more => .run i (s1.setInputs (more ++ rest))
    | .reject r => fetchRejected r x s1

/-- The inputs with one more at their head. -/
def pushInput (x : Input) (s : State) : State := s.setInputs (x :: s.inputs)

end Sys2Proof.Machine
end

