-- ==== Sys2Proof/Machine/Step.lean ====
section
/-! DEFINITION. One step: the next input event is fetched, decoded and executed (spec/00_scope.md R9).
-/
namespace Sys2Proof.Machine
open Sys2Proof

/-- One step of the block. Without an input nothing happens; a refused input has no step (R61, R266). -/
def step (s : State) : Host.Outcome State Fault Refusal :=
  match fetch s with
  | .idle t => .next t
  | .run i t => exec i t
  | .refuse r => .refused r

/-- The state with one instruction of the opcode table at the head of its inputs, where `step` takes the next one. -/
def State.withFetchWord (s : State) (nbits w : Nat) : State := pushInput (tableWordInput nbits w) s

end Sys2Proof.Machine
end

