-- ==== Sys2Proof/WellFormed.lean ====
section
/-! DEFINITION. Well-formed instructions: the spellings that the encodings of spec/30_encoding.md admit, one check per
constructor that needs one.
-/
namespace Sys2Proof
open Sys2Proof.Machine

/-- A base-shape frame that the receiver takes at its own length: a 10-byte frame whose first 9 bytes validate is received
as the 9-byte frame (R291), so it is no 10-byte spelling. -/
def noCollision (cfg : Config) (k : MsgClass) (d : Direction) (a : Addr) (val : Byte) : Option Byte → Bool
  | none => true
  | some b => !endsAt cfg.chk (baseFrame cfg k d a val (some b)) 9

/-- The register operand: a reserved offset is one of R62's. -/
def regWellFormed : Reg → Bool
  | .reserved off => off.toNat % 4 == 0 && regAt off.toNat == .reserved off
  | .ctrl | .status | .addr | .idcfg | .sval | .tcodes | .cmd | .cnt | .rtd | .txcfg | .txaddr | .rxinfo
  | .rxbuf0 | .rxbuf1 | .rxbuf2 | .period _ | .wait _ | .retry _ | .intstat | .inten => true

/-- The well-formed instructions under a configuration. -/
def wellFormed (cfg : Config) : Instr → Bool
  | .idReq _ _ _ _ => true
  | .idResp _ => true
  | .reqReq a val batt => noCollision cfg .req .request a val batt
  | .reqResp a val batt => noCollision cfg .req .response a val batt
  | .wdReq a val batt => noCollision cfg .wd .request a val batt
  | .wdResp a val batt => noCollision cfg .wd .response a val batt
  | .dataReq a val batt => noCollision cfg .data .request a val batt
  | .dataResp a val batt => noCollision cfg .data .response a val batt
  | .unknownType code => classify cfg.tc code == none && code != DELIM
  | .nop => true
  | .trigger => true
  | .dataEvent => true
  | .rxPop => true
  | .unassign => true
  | .clrErr => true
  | .txRaw => true
  | .txLogical => true
  | .reservedCmdLow op => 0x06 ≤ op.toNat && op.toNat ≤ 0x0F
  | .reservedCmdHigh op => 0x12 ≤ op.toNat
  | .rxByte _ => true
  | .tick => true
  | .reset _ => true
  | .regRead r => regWellFormed r
  | .regWrite r _ => regWellFormed r && r != .cmd

end Sys2Proof
end

