-- ==== Sys2Proof/Safety.lean ====
section
/-! DEFINITION. What a safe run is, and the invariants and properties that claims about the block are stated in.
-/
namespace Sys2Proof.Machine
open Sys2Proof

/-! ### Safe inputs (spec/20_memory.md R61) -/

/-- A register access the interface has: 32 bits, aligned, below 0x100 (R61). -/
def accessAllowed (width off : Nat) : Prop := width = 32 ∧ off % 4 = 0 ∧ off < 0x100

/-- An input that has a step: every event but a refused register access (R61, R266). -/
def inputAllowed : Input → Prop
  | .regRead width off => accessAllowed width off
  | .regWrite width off _ => accessAllowed width off
  | .reset _ => True
  | .rxByte _ => True
  | .tick => True
  | .wire _ => True

/-- A safe run is one in which no step is refused. -/
def SafeFor (n : Nat) (s : State) : Prop := ∃ t, Host.Core.run Sys2Proof.core n s = .next t

/-! ### Invariants -/

/-- The state after an end of step (spec/44_host_interface.md R220, R233): nothing is left to arbitrate, and IRQ is its level. -/
structure Settled (s : State) : Prop where
  arbitrated : s.host.ctrl.seqEn = true → s.seq.infl = false → ∀ c, s.sendable c = false
  irq : s.out.irq = irqLevel s.host

/-- A frame the sequencer may send for class `c`: a request frame of the class, with the device's own address and encoded
value and battery bytes (spec/40_sequencer.md R113). -/
def IsSeqFrame (s : State) (c : MsgClass) (f : List Byte) : Prop :=
  if c = .id then ∃ devtype mod0 mod1 mod2, f = idReqFrame s.cfg devtype mod0 mod1 mod2
  else ∃ v b, f = baseFrame s.cfg c .request s.host.addr (encBool v) (Option.map encBatt b)

/-- The sequencer's invariants (spec/10_state.md R46, R47; spec/40_sequencer.md R110, R112 to R114, R118, R120, R121, R124,
R125). -/
structure SequencerInv (s : State) : Prop where
  /-- `PEND[c] → ACTIVE[c]` (R46) -/
  pend_active : ∀ c, (s.txn c).pend = true → (s.txn c).active = true
  /-- `SENT[c] → ACTIVE[c]` (R46) -/
  sent_active : ∀ c, (s.txn c).sent = true → (s.txn c).active = true
  /-- `ACTIVE[ID] = 1` iff `ASTATE = REQUESTED` (R46) -/
  id_active : (s.txn .id).active = true ↔ s.seq.astate = .requested
  /-- `ACTIVE[c] = 0` for c ≠ ID unless `ASTATE = ASSIGNED` (R46) -/
  other_active : ∀ c, c ≠ .id → (s.txn c).active = true → s.seq.astate = .assigned
  /-- `INFL → ACTIVE[SCLS] ∧ SENT[SCLS] ∧ ¬PEND[SCLS]` (R47) -/
  slot : s.seq.infl = true →
    (s.txn s.seq.scls).active = true ∧ (s.txn s.seq.scls).sent = true ∧ (s.txn s.seq.scls).pend = false
  /-- PCNT is used for REQ and WD only (R46) -/
  pcnt_id : (s.txn .id).pcnt = 0
  pcnt_data : (s.txn .data).pcnt = 0
  /-- with the sequencer off nothing is live and no period runs (R124) -/
  seq_off : s.host.ctrl.seqEn = false → s.seq.infl = false ∧ ∀ c, (s.txn c).active = false ∧ (s.txn c).pcnt = 0
  /-- a class that is not enabled has no transaction and no period running (R125) -/
  class_off : ∀ c, s.host.ctrl.en c = false → (s.txn c).active = false ∧ (s.txn c).pcnt = 0
  /-- ASSIGNED iff the stored address is not the unassigned one (R110, R120, R123, R281) -/
  assigned_addr : s.seq.astate = .assigned ↔ s.host.addr ≠ s.cfg.unassigned
  /-- a live transaction's snapshot is a request frame of its class (R112, R113) -/
  snapshot : ∀ c, (s.txn c).active = true → IsSeqFrame s c (s.txn c).tf
  /-- a live transaction is due or holds the slot: none is left that nothing will send or expire (R112, R114, R118, R121) -/
  due_or_sent : ∀ c, (s.txn c).active = true → (s.txn c).pend = true ∨ (s.seq.infl = true ∧ s.seq.scls = c)

/-- The receiver's invariants (spec/43_framing_checksum.md R194 to R202, spec/10_state.md R35). -/
structure ReceiverInv (s : State) : Prop where
  /-- outside COLLECT no byte is held (R195, R196) -/
  outside : s.frx.rxs ≠ .collect → s.frx.rn = 0 ∧ s.frx.rsd = false
  /-- in COLLECT some bytes, but not a whole frame, are held, and the first is the type code of RK, RD (R195, R196, R198) -/
  inside : s.frx.rxs = .collect →
    1 ≤ s.frx.rn ∧ s.frx.rn < maxLen s.frx.rk ∧
    classify s.cfg.tc (s.frx.rb.toList.getD 0 0) = some (s.frx.rk, s.frx.rd)
  /-- RSD is set only between the two candidate lengths (R196) -/
  short_seen : s.frx.rsd = true → s.frx.rk ≠ .id ∧ s.frx.rn = 9
  /-- a disabled receiver is idle (R194, R202) -/
  disabled : s.host.ctrl.rxEn = false → s.frx.rxs = .idle
  /-- LEN is 0 before the first delivery, then a frame length; HAS_BATT is LEN = 10 (R35) -/
  info_len : s.host.rxinfo.len = 0 ∨ (s.host.rxinfo.len.toNat ∈ candLens s.host.rxinfo.kind)
  info_batt : s.host.rxinfo.hasBatt = decide (s.host.rxinfo.len = 10)
  /-- a held frame has a length (R25, R35) -/
  held : s.host.rxfValid = true → s.host.rxinfo.len ≠ 0

/-! ### Properties a claim may assume -/

/-- P4: byte lists of equal length that differ in exactly one position have different checksums
(spec/43_framing_checksum.md R190). A claim that needs it names it. -/
def P4 (c : Checksum) : Prop :=
  ∀ (x : List Byte) (p : Nat) (b : Byte), p < x.length → b ≠ x.getD p 0 → chk c (x.set p b) ≠ chk c x

/-! ### The holding register (spec/10_state.md R35, R36) -/

/-- The holding register of `t` got the frame `fb` of class `k` and direction `d`: its bytes in lane order, its length, class,
direction and battery flag, RXF_VALID and RXF. Of the other host registers of `s` only those the sequencer moves for a response
may differ: ADDR, and the bits ASSIGNED and ACK (spec/43_framing_checksum.md R200, spec/40_sequencer.md R119, R120). -/
def CopiedToHost (fb : List Byte) (k : MsgClass) (d : Direction) (s t : State) : Prop :=
  t.host = { s.host with
    rxfValid := true
    rxinfo := ⟨BitVec.ofNat 4 fb.length, k, d, decide (fb.length = 10)⟩
    rxbuf0 := t.host.rxbuf0, rxbuf1 := t.host.rxbuf1, rxbuf2 := t.host.rxbuf2
    addr := t.host.addr, intstat := t.host.intstat } ∧
  (∀ j, j < 4 →
    t.host.rxbuf0.extractLsb' (8 * j) 8 = fb.getD j 0 ∧
    t.host.rxbuf1.extractLsb' (8 * j) 8 = fb.getD (4 + j) 0 ∧
    t.host.rxbuf2.extractLsb' (8 * j) 8 = fb.getD (8 + j) 0) ∧
  t.host.intstat.getLsbD 0 = true ∧
  (∀ j, j ≠ 0 → j ≠ 1 → j ≠ 4 → t.host.intstat.getLsbD j = s.host.intstat.getLsbD j)

/-! ### Kinds of instructions -/

/-- Class, direction and bytes of a wire frame (spec/30_encoding.md R81); `none` for every other instruction. -/
def frameParts (cfg : Config) : Instr → Option (MsgClass × Direction × List Byte)
  | .idReq devtype mod0 mod1 mod2 => some (.id, .request, idReqFrame cfg devtype mod0 mod1 mod2)
  | .idResp a => some (.id, .response, idRespFrame cfg a)
  | .reqReq a val batt => some (.req, .request, baseFrame cfg .req .request a val batt)
  | .reqResp a val batt => some (.req, .response, baseFrame cfg .req .response a val batt)
  | .wdReq a val batt => some (.wd, .request, baseFrame cfg .wd .request a val batt)
  | .wdResp a val batt => some (.wd, .response, baseFrame cfg .wd .response a val batt)
  | .dataReq a val batt => some (.data, .request, baseFrame cfg .data .request a val batt)
  | .dataResp a val batt => some (.data, .response, baseFrame cfg .data .response a val batt)
  | .unknownType _ | .nop | .trigger | .dataEvent | .rxPop | .unassign | .clrErr | .txRaw | .txLogical
  | .reservedCmdLow _ | .reservedCmdHigh _ | .rxByte _ | .tick | .reset _ | .regRead _ | .regWrite _ _ => none

/-- The instruction runs command `c`: spelled as the command itself or as a RegWrite to CMD (spec/44_host_interface.md R223). -/
def RunsCommand (c : Command) (i : Instr) : Prop :=
  (i = commandInstr c) ∨ ∃ v, i = .regWrite .cmd v ∧ commandOf v = c

/-- The instruction brings a byte, or the bytes of a frame, from the wire. -/
def FromWire (i : Instr) : Prop :=
  (∃ b, i = .rxByte b) ∨ (∃ b, i = .unknownType b) ∨ ∃ cfg p, frameParts cfg i = some p

/-- Registers that a write stores and a read returns, with the bits that are writable (spec/10_state.md R24 to R42). -/
def writeMask : Reg → Option Word
  | .ctrl => some 0x3F
  | .idcfg => some 0xFFFFFFFF
  | .sval => some 0xFFFF
  | .txcfg => some 0x00FFFF0F
  | .txaddr => some 0xFFFFFFFF
  | .period .req => some 0xFFFF
  | .period .wd => some 0xFFFF
  | .wait _ => some 0xFFFF
  | .retry .req => some 0x3FFFF
  | .retry .wd => some 0x3FFFF
  | .retry .data => some 0x3FFFF
  | .inten => some 0x3F
  | .period .id | .period .data | .retry .id
  | .status | .addr | .tcodes | .cmd | .cnt | .rtd | .rxinfo | .rxbuf0 | .rxbuf1 | .rxbuf2 | .intstat | .reserved _ => none

/-- Registers and fields a write leaves alone (spec/44_host_interface.md R230, R232). -/
def writeIgnored : Reg → Bool
  | .status | .addr | .tcodes | .cnt | .rxinfo | .rxbuf0 | .rxbuf1 | .rxbuf2 | .reserved _ => true
  | .period .id | .period .data | .retry .id => true
  | .period .req | .period .wd | .retry .req | .retry .wd | .retry .data | .wait _ => false
  | .ctrl | .idcfg | .sval | .cmd | .rtd | .txcfg | .txaddr | .intstat | .inten => false

/-! ### Stretches of time -/

/-- `n` Tick events (the TICK line of spec/30_encoding.md R96). -/
def ticks : Nat → State → State
  | 0, s => s
  | n + 1, s => ticks n (tickStep s)

end Sys2Proof.Machine
end

