-- ==== Sys2Proof/Certificates/Slice0/Obligations.lean ====
section
/-! DEFINITION. The statements for the provers. "Settled" is the state any step leaves (R233, stated below as
`EveryStepSettles`); a statement that assumes it gives the whole next state, so it is the instruction's frame as well.
-/
open Sys2Proof Sys2Proof.Machine

/-! ## Encoding, decoding and the step -/

/-- Decode and encode agree for every well-formed instruction, every operand and every legal configuration (R81 to R94, R99). -/
def Obligations.DecodeEncodeEveryInstruction : Prop :=
  ∀ (cfg : Config) (i : Instr), wellFormed cfg i = true → decode cfg (encode cfg i) = .instr i []

/-- A few words written out from the spec's encodings decode to their instructions (reference configuration, R98); and, under
every configuration, each offset of the register window decodes to its register, for a read and, but for CMD, for a write, and
every reserved offset to a reserved one (R23, R37, R62). -/
def Obligations.SampleWordsDecode : Prop :=
  decode Config.reference (.wire [0x49, 0x01, 0x4C, 0x45, 0x44, 0x01, 0x1F, 0x0D]) = .instr (.idReq 0x01 0x4C 0x45 0x44) [] ∧
  decode Config.reference (.wire [0x52, 0x00, 0x01, 0x00, 0x01, 0x30, 0x35, 0x00, 0xB9, 0x0D]) =
    .instr (.reqReq ⟨0x00, 0x01, 0x00, 0x01⟩ 0x30 (some 0x35)) [] ∧
  decode Config.reference (.wire [0x77, 0x00, 0x01, 0x00, 0x01, 0x30, 0x00, 0xA9, 0x0D]) =
    .instr (.wdResp ⟨0x00, 0x01, 0x00, 0x01⟩ 0x30 none) [] ∧
  decode Config.reference (.regWrite 32 0x18 0x00000001) = .instr .trigger [] ∧
  decode Config.reference (.regWrite 32 0x18 0x00000011) = .instr .txLogical [] ∧
  (∀ (cfg : Config) (v : Word),
    (∀ p ∈ [(0x00, Reg.ctrl), (0x04, .status), (0x08, .addr), (0x0C, .idcfg), (0x10, .sval), (0x14, .tcodes), (0x18, .cmd),
        (0x1C, .cnt), (0x20, .rtd), (0x24, .txcfg), (0x28, .txaddr), (0x2C, .rxinfo), (0x30, .rxbuf0), (0x34, .rxbuf1),
        (0x38, .rxbuf2), (0x40, .period .id), (0x44, .wait .id), (0x48, .retry .id), (0x50, .period .req), (0x54, .wait .req),
        (0x58, .retry .req), (0x60, .period .wd), (0x64, .wait .wd), (0x68, .retry .wd), (0x70, .period .data),
        (0x74, .wait .data), (0x78, .retry .data), (0x80, .intstat), (0x84, .inten)],
      decode cfg (.regRead 32 p.1) = .instr (.regRead p.2) [] ∧
      (p.2 ≠ .cmd → decode cfg (.regWrite 32 p.1 v) = .instr (.regWrite p.2 v) [])) ∧
    (∀ off, off % 4 = 0 → off ∈ [0x3C, 0x4C, 0x5C, 0x6C, 0x7C] ∨ 0x88 ≤ off ∧ off ≤ 0xFC →
      decode cfg (.regRead 32 off) = .instr (.regRead (.reserved (BitVec.ofNat 8 off))) [] ∧
      decode cfg (.regWrite 32 off v) = .instr (.regWrite (.reserved (BitVec.ofNat 8 off)) v) []))

/-- A write to CMD decodes by bits 7:0 alone, each opcode of R93 to its command and every other opcode to a reserved one (R94). -/
def Obligations.CommandWordOpcodeMap : Prop :=
  ∀ (cfg : Config) (v : Word),
    decode cfg (.regWrite 32 0x18 v) = .instr
      (match (v &&& 0xFF).toNat with
        | 0x00 => .nop | 0x01 => .trigger | 0x02 => .dataEvent | 0x03 => .rxPop | 0x04 => .unassign | 0x05 => .clrErr
        | 0x10 => .txRaw | 0x11 => .txLogical
        | n => if n < 0x10 then .reservedCmdLow (BitVec.ofNat 8 n) else .reservedCmdHigh (BitVec.ofNat 8 n)) []

/-- A step runs the decoded instruction on the state whose inputs have moved past it; the rest of the wire goes back first
(the inputs are the model's own, log entry 1). -/
def Obligations.StepRunsDecodedInstruction : Prop :=
  ∀ (s : State) (x : Input) (rest more : List Input) (i : Instr),
    s.inputs = x :: rest → decode s.cfg x = .instr i more →
    step s = exec i { s with inputs := more ++ rest }

/-- Every instruction has a next state in every state. A step is refused exactly where its input is a register access of another
width, at a misaligned offset, or at an offset of 0x100 or above (R61, R266); without an input it changes nothing (log entry 1). -/
def Obligations.OnlyBadAccessesAreRefused : Prop :=
  (∀ (i : Instr) (s : State), ∃ t, exec i s = .next t) ∧
  (∀ (s : State), s.inputs = [] → step s = .next s) ∧
  (∀ (s : State) (x : Input) (rest : List Input), s.inputs = x :: rest →
    (inputAllowed x → ∃ t, step s = .next t) ∧ (¬ inputAllowed x → ∃ r, step s = .refused r))

/-- A stretch of the wire is its bytes, one RxByte each in order, whatever frames the decoder sees in it (R96; the model's
choice of step size, log entries 2 and 3). -/
def Obligations.WireStreamIsItsBytes : Prop :=
  ∀ (bs : List Byte) (rest : List Input) (s : State), s.inputs = .wire bs :: rest →
    ∃ n, n ≤ bs.length + 1 ∧
      Host.Core.run Sys2Proof.core n s =
        .next (bs.foldl (fun u b => rxByteStep b u) { s with inputs := rest })

/-! ## Response types and field encoders -/

/-- Under a legal TC the eight codes are pairwise distinct, and the response code is the request code with bit 0x20 set (R164). -/
def Obligations.TypeCodesDistinct : Prop :=
  ∀ (tc : TypeCodes),
    (∀ k d k' d', typeCode tc k d = typeCode tc k' d' → k = k' ∧ d = d') ∧
    (∀ k, typeCode tc k .response = typeCode tc k .request ||| 0x20)

/-- Classify finds exactly the eight type codes, and 0x0D is none of them (R161). -/
def Obligations.ClassifyFindsTheTypeCodes : Prop :=
  ∀ (tc : TypeCodes) (code : Byte),
    (∀ k d, classify tc code = some (k, d) ↔
      code = (if d = .request then tc.code.get k else tc.code.get k ||| 0x20)) ∧
    classify tc 0x0D = none

/-- The value RegRead(RTD) returns, field by field; the read changes nothing else (R162; returned values join RDLOG, log entry 8). -/
def Obligations.RtdViewReads : Prop :=
  ∀ (s : State), Settled s → ∃ r : Word,
    exec (.regRead .rtd) s = .next { s with out := { s.out with rdlog := s.out.rdlog ++ [r] } } ∧
    r.extractLsb' 0 8 = s.host.rtdIn ∧
    r.extractLsb' 8 8 = s.host.rtdIn ||| 0x20 ∧
    (r.getLsbD 16 = true ↔ ∃ k, classify s.cfg.tc s.host.rtdIn = some (k, .request)) ∧
    (r.getLsbD 17 = true ↔ ∃ k, classify s.cfg.tc s.host.rtdIn = some (k, .response)) ∧
    (∀ k d, classify s.cfg.tc s.host.rtdIn = some (k, d) → r.extractLsb' 18 2 = k.toBits) ∧
    (classify s.cfg.tc s.host.rtdIn = none → r.extractLsb' 18 2 = 0) ∧
    r.extractLsb' 20 12 = 0

/-- RegWrite(0x20, v) sets RTD_IN to v[7:0] and changes nothing else (R163). -/
def Obligations.RtdWriteSetsInput : Prop :=
  ∀ (s : State) (v : Word), Settled s →
    exec (.regWrite .rtd v) s = .next { s with host := { s.host with rtdIn := v.setWidth 8 } }

/-- EncBool and EncBatt are the ASCII digits of the input mod 2 and mod 10, for all 256 inputs (R170, R171). -/
def Obligations.EncodersWrapToDigits : Prop :=
  ∀ v : Byte, (encBool v).toNat = 0x30 + v.toNat % 2 ∧ (encBatt v).toNat = 0x30 + v.toNat % 10

/-! ## Host transmit -/

/-- TX_RAW and TX_LOGICAL emit the frame of TXCFG, TXADDR and IDCFG, byte by byte as R174 lists them, and change nothing else
(R174 to R176). -/
def Obligations.HostTransmitSendsFrame : Prop :=
  ∀ (s : State) (raw : Bool), Settled s →
    let tx := s.host.txcfg
    let code := if tx.dir = .request then s.cfg.tc.code.get tx.kind else s.cfg.tc.code.get tx.kind ||| 0x20
    let addr := [s.host.txaddr.b0, s.host.txaddr.b1, s.host.txaddr.b2, s.host.txaddr.b3]
    let val := if raw then tx.value else 0x30 + tx.value % 2
    let payload :=
      if tx.kind = .id then
        if tx.dir = .request then
          [s.host.idcfg.devtype, s.host.idcfg.mod0, s.host.idcfg.mod1, s.host.idcfg.mod2]
        else addr
      else addr ++ [val] ++ (if tx.bp then [0x30 + tx.batt % 10] else [])
    let body := code :: payload
    let f := body ++ [(chk s.cfg.chk body).1, (chk s.cfg.chk body).2, 0x0D]
    exec (if raw then .txRaw else .txLogical) s = .next { s with out := { s.out with txlog := s.out.txlog ++ [f] } }

/-- Round trip: a validated frame whose battery byte, if present, is a digit is emitted again exactly by TX_RAW, once the
descriptor registers are set from its fields (R178). -/
def Obligations.TxRawRoundTrip : Prop :=
  ∀ (s : State) (fb : List Byte) (k : MsgClass) (d : Direction), Settled s →
    classify s.cfg.tc (fb.getD 0 0) = some (k, d) → fb.length ∈ candLens k → endsAt s.cfg.chk fb fb.length = true →
    (fb.length = 10 → 0x30 ≤ (fb.getD 6 0).toNat ∧ (fb.getD 6 0).toNat ≤ 0x39) →
    s.host.txcfg = ⟨k, d, decide (fb.length = 10), fb.getD 5 0, fb.getD 6 0 - 0x30⟩ →
    (if k = .id ∧ d = .request then s.host.idcfg = ⟨fb.getD 1 0, fb.getD 2 0, fb.getD 3 0, fb.getD 4 0⟩
      else s.host.txaddr = ⟨fb.getD 1 0, fb.getD 2 0, fb.getD 3 0, fb.getD 4 0⟩) →
    exec .txRaw s = .next { s with out := { s.out with txlog := s.out.txlog ++ [fb] } }

/-! ## The receiver -/

/-- A frame of any of the eight kinds, request or response, that arrives at an idle, enabled receiver is dispatched in the step
of its last byte, and its other bytes change nothing but the receiver. Where the holding register is free the frame is copied
to it, byte by byte in lane order, with its length, class, direction and battery flag, and RXF is raised; of the host registers
only ADDR and the bits ASSIGNED and ACK can move besides, which are the sequencer's (R35, R36, R194 to R200; a frame is its
bytes, log entry 2). -/
def Obligations.FrameDispatchedAtLastByte : Prop :=
  ∀ (s : State) (i : Instr) (k : MsgClass) (d : Direction) (fb : List Byte), Settled s →
    s.host.ctrl.rxEn = true → s.frx.rxs = .idle →
    frameParts s.cfg i = some (k, d, fb) → wellFormed s.cfg i = true →
    ∃ rb : Vector Byte 10, rb.toList.take fb.length = fb ∧
      let t := endOfStep (dispatchFrame fb k d { s with frx := ⟨.idle, rb, 0, k, d, false⟩ })
      exec i s = .next t ∧ t.frx = ⟨.idle, rb, 0, k, d, false⟩ ∧ t.table = s.table ∧
      (s.host.rxfValid = false → CopiedToHost fb k d s t)

/-- A request frame that finds the holding register free is copied to it, byte by byte in lane order, raises RXF, and changes
nothing but the receiver and IRQ (R36, R200, R119: request frames never match; a frame is its bytes, log entry 2). -/
def Obligations.RequestFrameReachesHost : Prop :=
  ∀ (s : State) (i : Instr) (k : MsgClass) (fb : List Byte), Settled s →
    s.host.ctrl.rxEn = true → s.frx.rxs = .idle → s.host.rxfValid = false →
    frameParts s.cfg i = some (k, .request, fb) → wellFormed s.cfg i = true →
    ∃ t, exec i s = .next t ∧
      t.host = { s.host with
        rxfValid := true
        rxinfo := ⟨BitVec.ofNat 4 fb.length, k, .request, decide (fb.length = 10)⟩
        rxbuf0 := t.host.rxbuf0, rxbuf1 := t.host.rxbuf1, rxbuf2 := t.host.rxbuf2
        intstat := s.host.intstat ||| 0x01 } ∧
      (∀ j, j < 4 →
        t.host.rxbuf0.extractLsb' (8 * j) 8 = fb.getD j 0 ∧
        t.host.rxbuf1.extractLsb' (8 * j) 8 = fb.getD (4 + j) 0 ∧
        t.host.rxbuf2.extractLsb' (8 * j) 8 = fb.getD (8 + j) 0) ∧
      t.frx.rxs = .idle ∧ t.frx.rn = 0 ∧ t.frx.rsd = false ∧ t.frx.rk = k ∧ t.frx.rd = .request ∧
      t.cfg = s.cfg ∧ t.table = s.table ∧ t.seq = s.seq ∧ t.inputs = s.inputs ∧
      t.out = { s.out with irq := t.host.intstat &&& t.host.inten != 0 }

/-- A frame that validates while the holding register is full is lost to the host: the held frame stays, RX_OVR and ERR are
set; the sequencer still sees it (R201, R255). -/
def Obligations.OverrunKeepsHeldFrame : Prop :=
  ∀ (fb : List Byte) (k : MsgClass) (d : Direction) (s : State), s.host.rxfValid = true →
    dispatchFrame fb k d s =
      matchResponse k d fb { s with host := { s.host with rxOvr := true, intstat := s.host.intstat ||| 0x20 } } ∧
    (dispatchFrame fb k d s).host.rxinfo = s.host.rxinfo ∧ (dispatchFrame fb k d s).host.rxbuf0 = s.host.rxbuf0 ∧
    (dispatchFrame fb k d s).host.rxbuf1 = s.host.rxbuf1 ∧ (dispatchFrame fb k d s).host.rxbuf2 = s.host.rxbuf2 ∧
    (dispatchFrame fb k d s).host.rxfValid = true

/-- A byte that is no type code where a frame would start, as the table's UNKNOWN_TYPE or as a received byte, counts ERR_TYPE
and starts the hunt; nothing else changes (R91, R194, R195, R252). -/
def Obligations.UnknownTypeCountsAndHunts : Prop :=
  ∀ (s : State) (code : Byte) (i : Instr), (i = .unknownType code ∨ i = .rxByte code) →
    Settled s → s.host.ctrl.rxEn = true → s.frx.rxs = .idle → wellFormed s.cfg (.unknownType code) = true →
    ∃ h : HostRegs,
      h = { s.host with
        cnt := { s.host.cnt with errType := BitVec.ofNat 8 (min (s.host.cnt.errType.toNat + 1) 255) }
        intstat := s.host.intstat ||| 0x20 } ∧
      exec i s = .next { s with
        host := h, frx := { s.frx with rxs := .hunt }, out := { s.out with irq := h.intstat &&& h.inten != 0 } }

/-- HUNT discards every byte up to and including the next 0x0D, then returns to IDLE; nothing else changes, for one byte and
for a stretch of them (R194, R197). -/
def Obligations.HuntEndsAtDelimiter : Prop :=
  ∀ (s : State), Settled s → s.host.ctrl.rxEn = true → s.frx.rxs = .hunt →
    (∀ b, exec (.rxByte b) s =
      .next (if b = 0x0D then { s with frx := { s.frx with rxs := .idle } } else s)) ∧
    (∀ bs : List Byte, (0x0D : Byte) ∉ bs →
      receiveBytes bs s = s ∧ receiveBytes (bs ++ [0x0D]) s = { s with frx := { s.frx with rxs := .idle } })

/-- The byte-serial scan, whatever events came between the bytes. A type code starts a frame; inside a frame a byte that ends
no candidate is stored; a delimiter that ends a valid candidate dispatches the frame in its own step, and copies it to the
holding register where that is free; a delimiter at the short length whose checksum fails is stored and remembered. A byte
that dispatches nothing changes nothing but the receiver (R195, R196, R199, R200, R290, R293). -/
def Obligations.ReceiverStoresFrameBytes : Prop :=
  ∀ (s : State) (b : Byte), Settled s → s.host.ctrl.rxEn = true →
    let rb := s.frx.rb.setIfInBounds s.frx.rn b
    let n := s.frx.rn + 1
    (∀ k d, s.frx.rxs = .idle → classify s.cfg.tc b = some (k, d) →
      exec (.rxByte b) s = .next { s with
        frx := { rxs := .collect, rb := s.frx.rb.setIfInBounds 0 b, rn := 1, rk := k, rd := d, rsd := false } }) ∧
    (s.frx.rxs = .collect → n ≠ maxLen s.frx.rk → (b ≠ 0x0D ∨ n ∉ candLens s.frx.rk) →
      exec (.rxByte b) s = .next { s with frx := { s.frx with rb := rb, rn := n } }) ∧
    (s.frx.rxs = .collect → b = 0x0D → n ∈ candLens s.frx.rk → validAt s.cfg.chk rb.toList n = true →
      let fb := rb.toList.take n
      let t := endOfStep
        (dispatchFrame fb s.frx.rk s.frx.rd { s with frx := { s.frx with rxs := .idle, rb := rb, rn := 0, rsd := false } })
      exec (.rxByte b) s = .next t ∧ t.frx = { s.frx with rxs := .idle, rb := rb, rn := 0, rsd := false } ∧
      t.table = s.table ∧ (s.host.rxfValid = false → CopiedToHost fb s.frx.rk s.frx.rd s t)) ∧
    (s.frx.rxs = .collect → b = 0x0D → n = 9 → s.frx.rk ≠ .id → validAt s.cfg.chk rb.toList 9 = false →
      exec (.rxByte b) s = .next { s with frx := { s.frx with rb := rb, rn := 9, rsd := true } })

/-- A frame that reaches its maximum length without validating is discarded: ERR_CHK for a delimiter there, ERR_FRAME and the
hunt for no delimiter at any candidate (R196, R253 (a), R254). -/
def Obligations.DiscardAtMaximumLength : Prop :=
  ∀ (s : State) (b : Byte), Settled s → s.host.ctrl.rxEn = true → s.frx.rxs = .collect →
    s.frx.rn + 1 = maxLen s.frx.rk →
    let rb := s.frx.rb.setIfInBounds s.frx.rn b
    (b = 0x0D → validAt s.cfg.chk rb.toList (maxLen s.frx.rk) = false →
      ∃ h : HostRegs,
        h = { s.host with
          cnt := { s.host.cnt with errChk := BitVec.ofNat 8 (min (s.host.cnt.errChk.toNat + 1) 255) }
          intstat := s.host.intstat ||| 0x20 } ∧
        exec (.rxByte b) s = .next { s with
          host := h, frx := { s.frx with rxs := .idle, rb := rb, rn := 0, rsd := false }
          out := { s.out with irq := h.intstat &&& h.inten != 0 } }) ∧
    (b ≠ 0x0D → s.frx.rsd = false →
      ∃ h : HostRegs,
        h = { s.host with
          cnt := { s.host.cnt with errFrame := BitVec.ofNat 8 (min (s.host.cnt.errFrame.toNat + 1) 255) }
          intstat := s.host.intstat ||| 0x20 } ∧
        exec (.rxByte b) s = .next { s with
          host := h, frx := { s.frx with rxs := .hunt, rb := rb, rn := 0, rsd := false }
          out := { s.out with irq := h.intstat &&& h.inten != 0 } })

/-- A failed short candidate followed by a byte that is no delimiter: ERR_CHK, and that byte is where the next frame would
start. A type code starts that frame; a byte that is no type code records ERR_TYPE in the same step and starts the hunt.
Nothing else changes (R196, R252, R253 (b), R260). -/
def Obligations.FailedShortFrameRestarts : Prop :=
  ∀ (s : State) (b : Byte), Settled s → s.host.ctrl.rxEn = true →
    s.frx.rxs = .collect → s.frx.rn + 1 = maxLen s.frx.rk → s.frx.rsd = true → b ≠ 0x0D →
    let inc (v : Byte) : Byte := BitVec.ofNat 8 (min (v.toNat + 1) 255)
    let irq := (s.host.intstat ||| 0x20) &&& s.host.inten != 0
    let rb := s.frx.rb.setIfInBounds s.frx.rn b
    (∀ k d, classify s.cfg.tc b = some (k, d) →
      exec (.rxByte b) s = .next { s with
        host := { s.host with
          cnt := { s.host.cnt with errChk := inc s.host.cnt.errChk }, intstat := s.host.intstat ||| 0x20 }
        frx := { rxs := .collect, rb := rb.setIfInBounds 0 b, rn := 1, rk := k, rd := d, rsd := false }
        out := { s.out with irq := irq } }) ∧
    (classify s.cfg.tc b = none →
      exec (.rxByte b) s = .next { s with
        host := { s.host with
          cnt := { s.host.cnt with errChk := inc s.host.cnt.errChk, errType := inc s.host.cnt.errType }
          intstat := s.host.intstat ||| 0x20 }
        frx := { s.frx with rxs := .hunt, rb := rb, rn := 0, rsd := false }
        out := { s.out with irq := irq } })

/-- Under P4, a frame with one corrupted byte behind its type byte is not delivered and moves nothing but the receiver, CNT and
INTSTAT, where the 9-byte candidate of a 10-byte frame does not validate (the rule's named exception). A corrupted byte before
the delimiter ends in ERR_CHK or, for a 9-byte frame, in the wait for the tenth byte (R204 (a), (b); log entry 2). -/
def Obligations.CorruptedFrameNotDelivered : Prop :=
  ∀ (s : State) (i : Instr) (k : MsgClass) (d : Direction) (fb : List Byte) (p : Nat) (b : Byte), Settled s →
    P4 s.cfg.chk → s.host.ctrl.rxEn = true → s.frx.rxs = .idle →
    frameParts s.cfg i = some (k, d, fb) → wellFormed s.cfg i = true →
    1 ≤ p → p < fb.length → b ≠ fb.getD p 0 →
    (fb.length = 10 → endsAt s.cfg.chk (fb.set p b) 9 = false) →
    let t := receiveBytes (fb.set p b) s
    t.seq = s.seq ∧ t.table = s.table ∧ t.out.txlog = s.out.txlog ∧ t.out.nvlog = s.out.nvlog ∧
    t.host = { s.host with cnt := t.host.cnt, intstat := t.host.intstat } ∧
    t.host.intstat.getLsbD 0 = s.host.intstat.getLsbD 0 ∧
    (p + 1 < fb.length → fb.length ≠ 9 →
      t.frx.rxs = .idle ∧ t.host.intstat = s.host.intstat ||| 0x20 ∧
      t.host.cnt = { s.host.cnt with errChk := BitVec.ofNat 8 (min (s.host.cnt.errChk.toNat + 1) 255) }) ∧
    (p + 1 < fb.length → fb.length = 9 →
      t.frx.rxs = .collect ∧ t.frx.rn = 9 ∧ t.frx.rsd = true ∧ t.host = s.host)

/-- A response of class REQ, WD or DATA from the device's own address ends the live, sent transaction of its class, in flight
or waiting to retry, and raises ACK and no other of the sequencer's interrupt bits; the other classes keep their transactions (R119, R121; log entry 2). -/
def Obligations.OwnResponseAcknowledges : Prop :=
  ∀ (s : State) (i : Instr) (k : MsgClass) (fb : List Byte), Settled s →
    s.host.ctrl.rxEn = true → s.frx.rxs = .idle → s.host.ctrl.seqEn = true →
    frameParts s.cfg i = some (k, .response, fb) → wellFormed s.cfg i = true → k ≠ .id →
    [fb.getD 1 0, fb.getD 2 0, fb.getD 3 0, fb.getD 4 0] = s.host.addr.toList →
    (s.txn k).active = true → (s.txn k).sent = true →
    ∃ t, exec i s = .next t ∧
      (t.txn k).active = false ∧ (t.txn k).pend = false ∧ (t.txn k).sent = false ∧ (t.txn k).elap = 0 ∧
      (t.seq.infl = true → t.seq.scls ≠ k) ∧
      (∀ c, c ≠ k → (t.txn c).active = (s.txn c).active ∧ (t.txn c).tf = (s.txn c).tf ∧ (t.txn c).pcnt = (s.txn c).pcnt) ∧
      t.host.intstat.getLsbD 4 = true ∧
      (∀ j, 1 ≤ j → j ≤ 3 → t.host.intstat.getLsbD j = s.host.intstat.getLsbD j) ∧ t.host.addr = s.host.addr ∧ t.host.cnt = s.host.cnt ∧
      t.seq.astate = s.seq.astate ∧ t.table = s.table ∧ t.out.nvlog = s.out.nvlog

/-- An identification response is accepted in REQUESTED once the request is sent: its address is stored and written out,
ASSIGNED is raised, the transaction ends and its slot is free, and the period counters start at 0. One that carries the
unassigned address leaves the sequencer, ADDR, the sequencer's interrupt bits and the output streams as they were
(R41, R120, R131; log entry 2). -/
def Obligations.IdentificationResponse : Prop :=
  ∀ (s : State) (a : Addr), Settled s →
    s.host.ctrl.rxEn = true → s.frx.rxs = .idle → s.host.ctrl.seqEn = true → s.seq.astate = .requested →
    (s.txn .id).active = true → (s.txn .id).sent = true →
    (a ≠ s.cfg.unassigned →
      ∃ t, exec (.idResp a) s = .next t ∧
        t.host.addr = a ∧ t.seq.astate = .assigned ∧ t.out.nvlog = s.out.nvlog ++ [a] ∧
        t.host.intstat.getLsbD 1 = true ∧
        (∀ j, 2 ≤ j → j ≤ 4 → t.host.intstat.getLsbD j = s.host.intstat.getLsbD j) ∧
        (t.txn .id).active = false ∧ (t.txn .id).pend = false ∧ (t.txn .id).sent = false ∧ (t.txn .id).elap = 0 ∧
        (t.seq.infl = true → t.seq.scls ≠ .id) ∧
        (t.txn .req).pcnt = 0 ∧ (t.txn .wd).pcnt = 0 ∧ t.table = s.table ∧ t.host.cnt = s.host.cnt) ∧
    (a = s.cfg.unassigned →
      ∃ t, exec (.idResp a) s = .next t ∧ t.seq = s.seq ∧ t.host.addr = s.host.addr ∧
        (∀ j, 1 ≤ j → j ≤ 4 → t.host.intstat.getLsbD j = s.host.intstat.getLsbD j) ∧ t.table = s.table ∧
        t.out = { s.out with irq := t.host.intstat &&& t.host.inten != 0 })

/-- A request frame, and a response of a class with no live, sent transaction or from another address, has no sequencer effect:
the sequencer, ADDR, the bits ASSIGNED, ID_FAIL, TXN_FAIL and ACK, the table, CTRL and the output streams stay
(R41, R119; log entry 2). -/
def Obligations.OtherResponsesHaveNoSequencerEffect : Prop :=
  ∀ (s : State) (i : Instr) (k : MsgClass) (d : Direction) (fb : List Byte), Settled s →
    s.host.ctrl.rxEn = true → s.frx.rxs = .idle →
    frameParts s.cfg i = some (k, d, fb) → wellFormed s.cfg i = true →
    (d = .request ∨ (s.txn k).active = false ∨ (s.txn k).sent = false ∨
      (k ≠ .id ∧ [fb.getD 1 0, fb.getD 2 0, fb.getD 3 0, fb.getD 4 0] ≠ s.host.addr.toList)) →
    ∃ t, exec i s = .next t ∧ t.seq = s.seq ∧ t.host.addr = s.host.addr ∧ t.host.ctrl = s.host.ctrl ∧
      (∀ j, 1 ≤ j → j ≤ 4 → t.host.intstat.getLsbD j = s.host.intstat.getLsbD j) ∧ t.table = s.table ∧
      t.out = { s.out with irq := t.host.intstat &&& t.host.inten != 0 }

/-! ## The sequencer -/

/-- TRIGGER in UNASSIGNED with the sequencer on and the slot free: REQUESTED, and the identification request of IDCFG is sent;
nothing else changes (R111 to R114). -/
def Obligations.TriggerSendsRequest : Prop :=
  ∀ (s : State), s.host.ctrl.seqEn = true → s.seq.astate = .unassigned → s.seq.infl = false →
    let body := [s.cfg.tc.code.id, s.host.idcfg.devtype, s.host.idcfg.mod0, s.host.idcfg.mod1, s.host.idcfg.mod2]
    let f := body ++ [(chk s.cfg.chk body).1, (chk s.cfg.chk body).2, 0x0D]
    exec .trigger s = .next { s with
      seq := { astate := .requested, infl := true, scls := .id, wcnt := 0
               txn := { s.seq.txn with id :=
                 { active := true, pend := false, sent := true, elap := 0, tf := f, pcnt := s.seq.txn.id.pcnt } } }
      out := { s.out with txlog := s.out.txlog ++ [f], irq := s.host.intstat &&& s.host.inten != 0 } }

/-- Events that are ignored change nothing: TRIGGER with the sequencer off, in REQUESTED or in ASSIGNED; DATA_EVENT with the
sequencer off, outside ASSIGNED or with EN_DATA = 0; Tick with the sequencer off; whatever a disabled receiver gets from the
wire; a 0x0D that an idle receiver gets (R111, R122, R115, R194, R195). -/
def Obligations.IgnoredEventsChangeNothing : Prop :=
  ∀ (s : State), Settled s →
    (s.host.ctrl.seqEn = false ∨ s.seq.astate ≠ .unassigned → exec .trigger s = .next s) ∧
    (s.host.ctrl.seqEn = false ∨ s.seq.astate ≠ .assigned ∨ s.host.ctrl.enData = false → exec .dataEvent s = .next s) ∧
    (s.host.ctrl.seqEn = false → exec .tick s = .next s) ∧
    (s.host.ctrl.rxEn = false → ∀ i, FromWire i → exec i s = .next s) ∧
    (s.frx.rxs = .idle → exec (.rxByte 0x0D) s = .next s)

/-- DATA_EVENT takes a snapshot of SVAL and ADDR: sent at once where the slot is free or held by DATA, else due. It supersedes
a live DATA transaction and counts no failure (R112, R113, R122, R130). -/
def Obligations.DataEventSendsOrQueues : Prop :=
  ∀ (s : State), s.host.ctrl.seqEn = true → s.seq.astate = .assigned → s.host.ctrl.enData = true →
    let body := [s.cfg.tc.code.data, s.host.addr.b0, s.host.addr.b1, s.host.addr.b2, s.host.addr.b3,
      0x30 + s.host.sval.value % 2] ++ (if s.host.ctrl.battEn then [0x30 + s.host.sval.batt % 10] else [])
    let f := body ++ [(chk s.cfg.chk body).1, (chk s.cfg.chk body).2, 0x0D]
    let irq := s.host.intstat &&& s.host.inten != 0
    ((s.seq.infl = false ∨ s.seq.scls = .data) →
      exec .dataEvent s = .next { s with
        seq := { s.seq with
          infl := true, scls := .data, wcnt := 0
          txn := { s.seq.txn with data :=
            { active := true, pend := false, sent := true, elap := 0, tf := f, pcnt := s.seq.txn.data.pcnt } } }
        out := { s.out with txlog := s.out.txlog ++ [f], irq := irq } }) ∧
    (s.seq.infl = true → s.seq.scls ≠ .data →
      exec .dataEvent s = .next { s with
        seq := { s.seq with txn := { s.seq.txn with data :=
          { active := true, pend := true, sent := false, elap := 0, tf := f, pcnt := s.seq.txn.data.pcnt } } }
        out := { s.out with irq := irq } })

/-- Arbitration with the sequencer on and the slot free: the first class that is due and allowed, in the order ID (in REQUESTED)
or DATA, WD, REQ (in ASSIGNED), is sent with its snapshot and takes the slot, its elapsed time starting at its first send;
nothing else changes (R114, R129). -/
def Obligations.ArbitrationPriority : Prop :=
  ∀ (s : State) (c : MsgClass), s.host.ctrl.seqEn = true → s.seq.infl = false → (s.txn c).pend = true →
    (c = .id ∧ s.seq.astate = .requested ∨
      c ≠ .id ∧ s.seq.astate = .assigned ∧ (c ≠ .data → (s.txn .data).pend = false) ∧
        (c = .req → (s.txn .wd).pend = false)) →
    endOfStep s = { s with
      seq := { s.seq with
        infl := true, scls := c, wcnt := 0
        txn := s.seq.txn.set c { s.txn c with
          pend := false, sent := true, elap := if (s.txn c).sent then (s.txn c).elap else 0 } }
      out := { s.out with txlog := s.out.txlog ++ [(s.txn c).tf], irq := s.host.intstat &&& s.host.inten != 0 } }

/-- UNASSIGN, in every state: nothing is live, the slot is free, the address is the unassigned one and is written out for
persistence; no other register, the receiver and the table stay (R123, R131). -/
def Obligations.UnassignClearsEverything : Prop :=
  ∀ (s : State), ∃ t, exec .unassign s = .next t ∧
    t.host = { s.host with addr := s.cfg.unassigned } ∧
    t.seq.astate = .unassigned ∧ t.seq.infl = false ∧ t.seq.scls = .id ∧ t.seq.wcnt = 0 ∧
    (∀ c, t.txn c = { active := false, pend := false, sent := false, elap := 0, tf := (s.txn c).tf, pcnt := 0 }) ∧
    t.cfg = s.cfg ∧ t.table = s.table ∧ t.frx = s.frx ∧ t.inputs = s.inputs ∧
    t.out = { s.out with
      nvlog := s.out.nvlog ++ [s.cfg.unassigned], irq := s.host.intstat &&& s.host.inten != 0 }

/-- The cadence of REQ and WD. A class counts Ticks in ASSIGNED with its enable and a period set. At its period it starts a
transaction with a fresh snapshot, which is sent in the same step or stays due while another class holds the slot, and a
superseded request counts no failure. On every other Tick it starts none: its snapshot
stays, a class without a transaction stays without one, and a transaction already sent ends or goes on with its elapsed time
running; its count goes up by one where the class counts and stays otherwise (R112, R114 to R117, R130). -/
def Obligations.PeriodExpiryStartsTransaction : Prop :=
  ∀ (s : State) (c : MsgClass), (c = .req ∨ c = .wd) → s.host.ctrl.seqEn = true →
    let counts := s.seq.astate = .assigned ∧ s.host.ctrl.en c = true ∧ (s.table.get c).period ≠ 0
    let due := counts ∧ (s.table.get c).period.toNat ≤ (s.txn c).pcnt.toNat + 1
    ∃ t, exec .tick s = .next t ∧ t.table = s.table ∧ t.frx = s.frx ∧ t.host.addr = s.host.addr ∧
      t.out.nvlog = s.out.nvlog ∧
      (due →
        (t.txn c).active = true ∧ (t.txn c).pcnt = 0 ∧ (t.txn c).elap = 0 ∧
        (((t.txn c).pend = true ∧ (t.txn c).sent = false ∧
            (t.seq.astate = .assigned → t.seq.infl = true ∧ t.seq.scls ≠ c)) ∨
          ((t.txn c).pend = false ∧ (t.txn c).sent = true ∧ t.seq.infl = true ∧ t.seq.scls = c ∧ t.seq.wcnt = 0 ∧
            t.out.txlog = s.out.txlog ++ [(t.txn c).tf])) ∧
        (t.txn c).tf = frame s.cfg.chk (s.cfg.tc.code.get c)
          ([s.host.addr.b0, s.host.addr.b1, s.host.addr.b2, s.host.addr.b3, 0x30 + s.host.sval.value % 2]
            ++ (if s.host.ctrl.battEn then [0x30 + s.host.sval.batt % 10] else [])) ∧
        ((s.seq.infl = true → s.seq.scls = c) → t.host = s.host)) ∧
      (¬ due →
        (t.txn c).tf = (s.txn c).tf ∧
        ((s.txn c).active = false → (t.txn c).active = false) ∧
        ((s.txn c).active = true → (s.txn c).sent = true → (t.txn c).active = true →
          (t.txn c).sent = true ∧ (t.txn c).elap.toNat = min ((s.txn c).elap.toNat + 1) 131071) ∧
        (counts → (t.txn c).pcnt.toNat = (s.txn c).pcnt.toNat + 1) ∧
        (¬ counts → (t.txn c).pcnt = (s.txn c).pcnt))

/-- The identification wait expires: the identification transaction ends, the slot is free, back to UNASSIGNED, ID_FAIL raised,
nothing sent. Besides, the Tick moves WCNT and the elapsed time of whatever other class is live and sent, and nothing else
(R117, R118, R258). -/
def Obligations.IdentificationWaitExpires : Prop :=
  ∀ (s : State), s.host.ctrl.seqEn = true → s.seq.astate = .requested → s.seq.infl = true → s.seq.scls = .id →
    (s.table.get .id).wait.toNat ≤ s.seq.wcnt.toNat + 1 →
    let older (x : Txn) : Txn :=
      if x.active = true ∧ x.sent = true then { x with elap := BitVec.ofNat 17 (min (x.elap.toNat + 1) 131071) } else x
    exec .tick s = .next { s with
      host := { s.host with intstat := s.host.intstat ||| 0x04 }
      seq :=
        { astate := .unassigned, infl := false, scls := .id, wcnt := BitVec.ofNat 16 (min (s.seq.wcnt.toNat + 1) 65535)
          txn :=
            { id := { s.seq.txn.id with active := false, pend := false, sent := false, elap := 0 }
              req := older s.seq.txn.req, wd := older s.seq.txn.wd, data := older s.seq.txn.data } }
      out := { s.out with irq := (s.host.intstat ||| 0x04) &&& s.host.inten != 0 } }

/-- Retries of an unanswered request with an unbounded window: over any number of Ticks in which no period ends, the class's own
included, one resend of the same frame at each expiry of its wait, without end. A class's period may run meanwhile; where it is
off or its period 0, the number of Ticks has no bound (R116, R118, R127 for WD; conflict C6). -/
def Obligations.UnboundedRetrySchedule : Prop :=
  ∀ (s : State) (c : MsgClass) (n : Nat), c ≠ .id →
    s.host.ctrl.seqEn = true → s.seq.astate = .assigned →
    s.seq.infl = true → s.seq.scls = c → s.seq.wcnt = 0 →
    (s.txn c).active = true → (s.txn c).sent = true → (s.txn c).pend = false →
    (∀ k, k ≠ c → (s.txn k).active = false ∧ (s.txn k).pend = false) →
    (∀ k, k = .req ∨ k = .wd → s.host.ctrl.en k = false ∨ (s.table.get k).period = 0 ∨
      (s.txn k).pcnt.toNat + n < (s.table.get k).period.toNat) →
    (s.table.get c).retry.ren = true → (s.table.get c).retry.rinf = true →
    (ticks n s).out.txlog =
      s.out.txlog ++ List.replicate (n / max (s.table.get c).wait.toNat 1) (s.txn c).tf ∧
    (ticks n s).host = s.host ∧ ((ticks n s).txn c).active = true

/-- Retries that end: with wait W and window RWIN, RWIN / W resends (none with REN = 0), one per wait, then the transaction gives
up and counts one TXN_FAIL, and nothing more is sent, over any number of Ticks in which no period ends, the class's own
included (R116, R118, R127 for REQ and DATA; conflict C4). -/
def Obligations.BoundedRetryGivesUp : Prop :=
  ∀ (s : State) (c : MsgClass) (n : Nat), c ≠ .id →
    s.host.ctrl.seqEn = true → s.seq.astate = .assigned →
    s.seq.infl = true → s.seq.scls = c → s.seq.wcnt = 0 →
    (s.txn c).active = true → (s.txn c).sent = true → (s.txn c).pend = false → (s.txn c).elap = 0 →
    (∀ k, k ≠ c → (s.txn k).active = false ∧ (s.txn k).pend = false) →
    (∀ k, k = .req ∨ k = .wd → s.host.ctrl.en k = false ∨ (s.table.get k).period = 0 ∨
      (s.txn k).pcnt.toNat + n < (s.table.get k).period.toNat) →
    ((s.table.get c).retry.ren = true → (s.table.get c).retry.rinf = false) →
    let w := max (s.table.get c).wait.toNat 1
    let k := if (s.table.get c).retry.ren then (s.table.get c).retry.rwin.toNat / w else 0
    (n < (k + 1) * w →
      (ticks n s).out.txlog = s.out.txlog ++ List.replicate (n / w) (s.txn c).tf ∧
      ((ticks n s).txn c).active = true ∧ (ticks n s).host = s.host) ∧
    ((k + 1) * w ≤ n →
      (ticks n s).out.txlog = s.out.txlog ++ List.replicate k (s.txn c).tf ∧
      ((ticks n s).txn c).active = false ∧ (ticks n s).seq.infl = false ∧
      (ticks n s).host = { s.host with
        cnt := { s.host.cnt with txnFail := BitVec.ofNat 8 (min (s.host.cnt.txnFail.toNat + 1) 255) }
        intstat := s.host.intstat ||| 0x08 })

/-- ASTATE moves only as R110's table says, from a state that meets the sequencer's invariants. REQUESTED is left by a Tick only
where that Tick ends the wait of the identification request in flight, by a single byte only where it completes an
identification response, whose address is stored, and by a CTRL write only where SEQ_EN falls. -/
def Obligations.AStateTransitions : Prop :=
  ∀ (i : Instr) (s t : State), SequencerInv s → exec i s = .next t → (∀ nv, i ≠ .reset nv) →
    (s.seq.astate = .unassigned → t.seq.astate = .unassigned ∨
      (t.seq.astate = .requested ∧ RunsCommand .trigger i ∧ s.host.ctrl.seqEn = true)) ∧
    (s.seq.astate = .requested → t.seq.astate = .requested ∨
      (t.seq.astate = .assigned ∧ FromWire i ∧ s.host.ctrl.seqEn = true ∧ t.host.addr ≠ s.cfg.unassigned ∧
        (∀ b, i = .rxByte b →
          b = 0x0D ∧ s.frx.rxs = .collect ∧ s.frx.rk = .id ∧ s.frx.rd = .response ∧ s.frx.rn = 7 ∧
          validAt s.cfg.chk (s.frx.rb.setIfInBounds 7 b).toList 8 = true ∧ t.host.addr = frameAddr s.frx.rb.toList)) ∨
      (t.seq.astate = .unassigned ∧
        ((i = .tick ∧ s.host.ctrl.seqEn = true ∧ s.seq.infl = true ∧ s.seq.scls = .id ∧
            (s.table.get .id).wait.toNat ≤ s.seq.wcnt.toNat + 1) ∨
          RunsCommand .unassign i ∨
          ∃ v, i = .regWrite .ctrl v ∧ s.host.ctrl.seqEn = true ∧ v.getLsbD 0 = false))) ∧
    (s.seq.astate = .assigned → t.seq.astate = .assigned ∨ (t.seq.astate = .unassigned ∧ RunsCommand .unassign i))

/-- Each change of the stored address is written out for persistence; only Reset changes it without (R131, R281). -/
def Obligations.AddressChangePersisted : Prop :=
  ∀ (i : Instr) (s t : State), exec i s = .next t → (∀ nv, i ≠ .reset nv) → t.host.addr ≠ s.host.addr →
    t.out.nvlog = s.out.nvlog ++ [t.host.addr]

/-- At most one sequencer frame leaves the block in one event, behind the host frame of a transmit command; it is the snapshot
of the class that then holds the slot, with its wait starting at 0 (R69, R114, R126). A whole frame on the wire is many
events (log entry 2) and is left out. -/
def Obligations.AtMostOneSequencerFrame : Prop :=
  ∀ (i : Instr) (s t : State), exec i s = .next t → (∀ cfg, frameParts cfg i = none) →
    ∃ hostFrames seqFrames, t.out.txlog = s.out.txlog ++ hostFrames ++ seqFrames ∧
      (seqFrames = [] ∨
        (seqFrames = [(t.txn t.seq.scls).tf] ∧ t.seq.infl = true ∧ t.seq.wcnt = 0 ∧ t.host.ctrl.seqEn = true)) ∧
      (hostFrames = [] ∨ (RunsCommand .txRaw i ∧ hostFrames = [composeHost true s]) ∨
        (RunsCommand .txLogical i ∧ hostFrames = [composeHost false s]))

/-- The sequencer emits only request frames: whatever an event other than a transmit command adds to TXLOG starts with a
request code (R113, R265). -/
def Obligations.SequencerSendsOnlyRequests : Prop :=
  ∀ (i : Instr) (s t : State), SequencerInv s → exec i s = .next t →
    ¬ RunsCommand .txRaw i → ¬ RunsCommand .txLogical i →
    ∃ new, t.out.txlog = s.out.txlog ++ new ∧ ∀ f ∈ new, ∃ k, f.head? = some (s.cfg.tc.code.get k)

/-! ## Invariants of every step -/

/-- Every step keeps the sequencer's invariants, among them that a live transaction is due or in flight (R46, R47, R110, R112,
R114, R118, R121, R124, R125). -/
def Obligations.StepKeepsSequencerInv : Prop :=
  ∀ (s t : State), SequencerInv s → step s = .next t → SequencerInv t

/-- Every step keeps the receiver's invariants (R35, R194 to R202). -/
def Obligations.StepKeepsReceiverInv : Prop :=
  ∀ (s t : State), ReceiverInv s → step s = .next t → ReceiverInv t

/-- The state after reset meets the invariants and is settled. -/
def Obligations.ResetMeetsInvariants : Prop :=
  SequencerInv State.reset ∧ ReceiverInv State.reset ∧ Settled State.reset

/-- Every instruction leaves the block settled: nothing left to arbitrate and IRQ at its level (R233). -/
def Obligations.EveryStepSettles : Prop :=
  ∀ (i : Instr) (s t : State), exec i s = .next t → Settled t

/-- No operation of the block changes its configuration (R5). -/
def Obligations.ConfigurationNeverChanges : Prop :=
  ∀ (i : Instr) (s t : State), exec i s = .next t → t.cfg = s.cfg ∧ t.inputs = s.inputs

/-! ## The host interface -/

/-- A register read returns its value and changes nothing, for every register (R66, R220; returned values join RDLOG, log
entry 8). -/
def Obligations.RegReadHasNoSideEffect : Prop :=
  ∀ (s : State) (r : Reg), Settled s →
    exec (.regRead r) s = .next { s with out := { s.out with rdlog := s.out.rdlog ++ [readReg s r] } }

/-- What the status registers read, bit by bit: STATUS (R25), RXINFO (R35) and INTSTAT (R41); and what always reads 0: CMD, the
reserved offsets and the hardwired table fields (R30, R38, R40, R62). -/
def Obligations.StatusBits : Prop :=
  ∀ (s : State),
    (let r := readReg s .status;
      r.extractLsb' 0 2 = (match s.seq.astate with | .unassigned => 0 | .requested => 1 | .assigned => 2) ∧
      r.getLsbD 2 = s.seq.infl ∧
      r.extractLsb' 3 2 = (if s.seq.infl then s.seq.scls.toBits else 0) ∧
      r.getLsbD 5 = s.host.rxfValid ∧ r.getLsbD 6 = s.host.rxOvr ∧
      r.extractLsb' 7 2 = (match s.frx.rxs with | .idle => 0 | .collect => 1 | .hunt => 2) ∧
      (∀ c, r.getLsbD (9 + c.toBits.toNat) = (s.txn c).pend ∧ r.getLsbD (13 + c.toBits.toNat) = (s.txn c).active) ∧
      r.getLsbD 17 = s.host.cmdErr ∧ r.extractLsb' 18 14 = 0) ∧
    (let r := readReg s .rxinfo;
      r.extractLsb' 0 4 = s.host.rxinfo.len ∧ r.extractLsb' 4 2 = s.host.rxinfo.kind.toBits ∧
      (r.getLsbD 6 = true ↔ s.host.rxinfo.dir = .response) ∧ r.getLsbD 7 = s.host.rxinfo.hasBatt ∧
      r.extractLsb' 8 24 = 0) ∧
    (let r := readReg s .intstat;
      r.extractLsb' 0 6 = s.host.intstat ∧ r.extractLsb' 6 26 = 0) ∧
    readReg s .cmd = 0 ∧ (∀ off, readReg s (.reserved off) = 0) ∧
    readReg s (.period .id) = 0 ∧ readReg s (.period .data) = 0 ∧ readReg s (.retry .id) = 0

/-- Byte i of ADDR, IDCFG, TXADDR, TCODES and CNT is at bits [8i+7:8i], VALUE and BATT are bytes 0 and 1 of SVAL and bytes 1
and 2 of TXCFG, the fields of CTRL, of TXCFG's byte 0, of the table and of INTEN are at the bits their rules give, and each
RXBUF register reads its own four bytes of the held frame, which `CopiedToHost` places in lane order
(R24, R26 to R29, R31, R33, R34, R36, R38 to R40, R42, R63). -/
def Obligations.ByteLanes : Prop :=
  ∀ (s : State),
    (∀ j, j < 4 →
      (readReg s .addr).extractLsb' (8 * j) 8 = s.host.addr.toList.getD j 0 ∧
      (readReg s .txaddr).extractLsb' (8 * j) 8 = s.host.txaddr.toList.getD j 0 ∧
      (readReg s .idcfg).extractLsb' (8 * j) 8 =
        [s.host.idcfg.devtype, s.host.idcfg.mod0, s.host.idcfg.mod1, s.host.idcfg.mod2].getD j 0 ∧
      (readReg s .tcodes).extractLsb' (8 * j) 8 =
        [s.cfg.tc.code.id, s.cfg.tc.code.req, s.cfg.tc.code.wd, s.cfg.tc.code.data].getD j 0 ∧
      (readReg s .cnt).extractLsb' (8 * j) 8 =
        [s.host.cnt.errType, s.host.cnt.errChk, s.host.cnt.errFrame, s.host.cnt.txnFail].getD j 0 ∧
      (readReg s .sval).extractLsb' (8 * j) 8 = [s.host.sval.value, s.host.sval.batt].getD j 0) ∧
    (let r := readReg s .ctrl;
      r.getLsbD 0 = s.host.ctrl.seqEn ∧ r.getLsbD 1 = s.host.ctrl.rxEn ∧ r.getLsbD 2 = s.host.ctrl.battEn ∧
      r.getLsbD 3 = s.host.ctrl.enReq ∧ r.getLsbD 4 = s.host.ctrl.enWd ∧ r.getLsbD 5 = s.host.ctrl.enData ∧
      r.extractLsb' 6 26 = 0) ∧
    (let r := readReg s .txcfg;
      r.extractLsb' 0 2 = s.host.txcfg.kind.toBits ∧ (r.getLsbD 2 = true ↔ s.host.txcfg.dir = .response) ∧
      r.getLsbD 3 = s.host.txcfg.bp ∧ r.extractLsb' 4 4 = 0 ∧ r.extractLsb' 8 8 = s.host.txcfg.value ∧
      r.extractLsb' 16 8 = s.host.txcfg.batt ∧ r.extractLsb' 24 8 = 0) ∧
    (∀ c, (readReg s (.wait c)).toNat = (s.table.get c).wait.toNat) ∧
    (∀ c, (c = .req ∨ c = .wd) → (readReg s (.period c)).toNat = (s.table.get c).period.toNat) ∧
    (∀ c, c ≠ .id → let r := readReg s (.retry c);
      r.extractLsb' 0 16 = (s.table.get c).retry.rwin ∧ r.getLsbD 16 = (s.table.get c).retry.ren ∧
      r.getLsbD 17 = (s.table.get c).retry.rinf ∧ r.extractLsb' 18 14 = 0) ∧
    (readReg s .inten).toNat = s.host.inten.toNat ∧
    readReg s .rxbuf0 = s.host.rxbuf0 ∧ readReg s .rxbuf1 = s.host.rxbuf1 ∧ readReg s .rxbuf2 = s.host.rxbuf2

/-- A write to a writable register stores its writable bits; every other register, the receiver, the sequencer and the output
streams stay (R220, R221, R229 to R231). CTRL has statements of its own. -/
def Obligations.RegWriteReadsBack : Prop :=
  ∀ (s : State) (r : Reg) (v mask : Word), Settled s → writeMask r = some mask → r ≠ .ctrl →
    ∃ t, exec (.regWrite r v) s = .next t ∧ readReg t r = v &&& mask ∧
      (∀ r', r' ≠ r → readReg t r' = readReg s r') ∧
      t.cfg = s.cfg ∧ t.frx = s.frx ∧ t.seq = s.seq ∧ t.inputs = s.inputs ∧
      t.out = { s.out with irq := t.host.intstat &&& t.host.inten != 0 }

/-- A write to a read-only or reserved offset, or to a hardwired table field, has no effect (R230, R232). -/
def Obligations.ReadOnlyWritesIgnored : Prop :=
  ∀ (s : State) (r : Reg) (v : Word), Settled s → writeIgnored r = true → exec (.regWrite r v) s = .next s

/-- A write to INTSTAT clears the bits written as 1, leaves the others, and IRQ follows in the same step (R43, R228). -/
def Obligations.IntstatWriteOneClears : Prop :=
  ∀ (s : State) (v : Word), Settled s → ∃ t, exec (.regWrite .intstat v) s = .next t ∧
    (∀ j, j < 6 → t.host.intstat.getLsbD j = (s.host.intstat.getLsbD j && !v.getLsbD j)) ∧
    t = { s with
      host := { s.host with intstat := t.host.intstat }
      out := { s.out with irq := t.host.intstat &&& s.host.inten != 0 } }

/-- A CTRL write that keeps or raises every enable changes CTRL alone (R222, R124, R125, R202). -/
def Obligations.CtrlWriteRaisingEnables : Prop :=
  ∀ (s : State) (v : Word), Settled s →
    (s.host.ctrl.seqEn = true → v.getLsbD 0 = true) → (s.host.ctrl.rxEn = true → v.getLsbD 1 = true) →
    (∀ c, s.host.ctrl.en c = true → (ctrlOf v).en c = true) → SequencerInv s →
    exec (.regWrite .ctrl v) s = .next { s with
      host := { s.host with
        ctrl := ⟨v.getLsbD 0, v.getLsbD 1, v.getLsbD 2, v.getLsbD 3, v.getLsbD 4, v.getLsbD 5⟩ } }

/-- SEQ_EN written 1 → 0 cancels every transaction and the slot, returns REQUESTED to UNASSIGNED, and leaves ASSIGNED and the
address; CTRL takes v[5:0], and the receiver changes only where RX_EN falls too (R123, R124, R202, R222). -/
def Obligations.SequencerDisableCancels : Prop :=
  ∀ (s : State) (v : Word), s.host.ctrl.seqEn = true → v.getLsbD 0 = false →
    ∃ t, exec (.regWrite .ctrl v) s = .next t ∧
      readReg t .ctrl = v &&& 0x3F ∧
      t.host = { s.host with ctrl := t.host.ctrl } ∧
      (∀ c, t.txn c = { active := false, pend := false, sent := false, elap := 0, tf := (s.txn c).tf, pcnt := 0 }) ∧
      t.seq.infl = false ∧ t.seq.scls = .id ∧ t.seq.wcnt = 0 ∧
      t.seq.astate = (if s.seq.astate = .requested then .unassigned else s.seq.astate) ∧
      t.frx = (if s.host.ctrl.rxEn = true ∧ v.getLsbD 1 = false
        then { s.frx with rxs := .idle, rn := 0, rsd := false } else s.frx) ∧
      t.table = s.table ∧ t.out = { s.out with irq := s.host.intstat &&& s.host.inten != 0 }

/-- A class enable written 1 → 0 ends the class's transaction and clears its period counter; CTRL takes v[5:0], no other host
register and no output stream but TXLOG changes, and the receiver changes only where RX_EN falls too; unless SEQ_EN falls too,
the other classes whose enable stays keep their transactions (R125, R202, R222). -/
def Obligations.ClassDisableEndsTransaction : Prop :=
  ∀ (s : State) (v : Word) (c : MsgClass), c ≠ .id → s.host.ctrl.en c = true → (ctrlOf v).en c = false →
    ∃ t, exec (.regWrite .ctrl v) s = .next t ∧
      readReg t .ctrl = v &&& 0x3F ∧ t.host = { s.host with ctrl := t.host.ctrl } ∧ t.table = s.table ∧
      t.frx = (if s.host.ctrl.rxEn = true ∧ v.getLsbD 1 = false
        then { s.frx with rxs := .idle, rn := 0, rsd := false } else s.frx) ∧
      t.out = { s.out with txlog := t.out.txlog, irq := s.host.intstat &&& s.host.inten != 0 } ∧
      (t.txn c).active = false ∧ (t.txn c).pend = false ∧ (t.txn c).sent = false ∧ (t.txn c).pcnt = 0 ∧
      (t.seq.infl = true → t.seq.scls ≠ c) ∧
      ((s.host.ctrl.seqEn = true → v.getLsbD 0 = true) → ∀ k, (ctrlOf v).en k = true →
        (t.txn k).active = (s.txn k).active ∧ (t.txn k).tf = (s.txn k).tf ∧ (t.txn k).pcnt = (s.txn k).pcnt)

/-- RX_EN written 1 → 0 returns the receiver to IDLE and discards a partial frame; CTRL takes v[5:0], and the holding register,
the counters, the other host registers and the output streams but TXLOG stay; the sequencer and TXLOG stay where no other
enable falls (R202, R222). -/
def Obligations.ReceiverDisableDiscards : Prop :=
  ∀ (s : State) (v : Word), s.host.ctrl.rxEn = true → v.getLsbD 1 = false →
    ∃ t, exec (.regWrite .ctrl v) s = .next t ∧
      readReg t .ctrl = v &&& 0x3F ∧
      t.frx = { s.frx with rxs := .idle, rn := 0, rsd := false } ∧
      t.host = { s.host with ctrl := t.host.ctrl } ∧ t.table = s.table ∧
      t.out = { s.out with txlog := t.out.txlog, irq := s.host.intstat &&& s.host.inten != 0 } ∧
      ((s.host.ctrl.seqEn = true → v.getLsbD 0 = true) → (∀ c, s.host.ctrl.en c = true → (ctrlOf v).en c = true) →
        SequencerInv s → Settled s → t.seq = s.seq ∧ t.out.txlog = s.out.txlog)

/-- A write to CMD runs the command of its low byte, so both spellings of a command have one effect (R92, R223). -/
def Obligations.CmdWriteRunsCommand : Prop :=
  ∀ (s : State) (v : Word), exec (.regWrite .cmd v) s = exec (commandInstr (commandOf v)) s

/-- NOP changes nothing (R224). -/
def Obligations.NopChangesNothing : Prop :=
  ∀ (s : State), Settled s → exec .nop s = .next s

/-- RX_POP releases the holding register and changes nothing else (R225). -/
def Obligations.RxPopReleases : Prop :=
  ∀ (s : State), Settled s → exec .rxPop s = .next { s with host := { s.host with rxfValid := false } }

/-- CLR_ERR clears CNT, RX_OVR and CMD_ERR and nothing else (R226). -/
def Obligations.ClrErrClears : Prop :=
  ∀ (s : State), Settled s →
    exec .clrErr s = .next { s with
      host := { s.host with cnt := ⟨0, 0, 0, 0⟩, rxOvr := false, cmdErr := false } }

/-- A reserved opcode of either range sets CMD_ERR and ERR and nothing else; IRQ follows (R94, R227, R256). -/
def Obligations.ReservedOpcodesFlagged : Prop :=
  ∀ (s : State) (op : Byte) (i : Instr), Settled s → (i = .reservedCmdLow op ∨ i = .reservedCmdHigh op) →
    exec i s = .next { s with
      host := { s.host with cmdErr := true, intstat := s.host.intstat ||| 0x20 }
      out := { s.out with irq := (s.host.intstat ||| 0x20) &&& s.host.inten != 0 } }

/-! ## Events and reset -/

/-- What each event and each sequencer outcome records, and nothing else (R251); the counters saturate at 255 (R31). -/
def Obligations.EventsRecord : Prop :=
  ∀ (s : State),
    let inc (v : Byte) : Byte := BitVec.ofNat 8 (min (v.toNat + 1) 255)
    let c := s.host.cnt
    let err := s.host.intstat ||| 0x20
    countEvent .errType s = { s with host := { s.host with cnt := { c with errType := inc c.errType }, intstat := err } } ∧
    countEvent .errChk s = { s with host := { s.host with cnt := { c with errChk := inc c.errChk }, intstat := err } } ∧
    countEvent .errFrame s = { s with host := { s.host with cnt := { c with errFrame := inc c.errFrame }, intstat := err } } ∧
    countEvent .rxOvr s = { s with host := { s.host with rxOvr := true, intstat := err } } ∧
    countEvent .cmdErr s = { s with host := { s.host with cmdErr := true, intstat := err } } ∧
    countEvent .txnFail s = { s with
      host := { s.host with cnt := { c with txnFail := inc c.txnFail }, intstat := s.host.intstat ||| 0x08 } } ∧
    countEvent .idFail s = { s with host := { s.host with intstat := s.host.intstat ||| 0x04 } }

/-- Reset sets every state element to the value of R280's table, ADDR and ASTATE from the address it is given, and leaves TXLOG
and NVLOG (R280, R281). That the inputs, the configuration and RDLOG stay is the model's own choice: they are its own fields
(log entries 1, 5 and 8). -/
def Obligations.ResetSetsEveryElement : Prop :=
  ∀ (s : State) (nv : Addr),
    let txn : Txn := { active := false, pend := false, sent := false, elap := 0, tf := [], pcnt := 0 }
    exec (.reset nv) s = .next
      { cfg := s.cfg
        host :=
          { ctrl := ⟨false, false, false, false, false, false⟩, addr := nv, idcfg := ⟨0, 0, 0, 0⟩, sval := ⟨0, 0⟩
            cnt := ⟨0, 0, 0, 0⟩, rtdIn := 0, txcfg := ⟨.id, .request, false, 0, 0⟩, txaddr := ⟨0, 0, 0, 0⟩
            rxinfo := ⟨0, .id, .request, false⟩, rxbuf0 := 0, rxbuf1 := 0, rxbuf2 := 0
            rxfValid := false, rxOvr := false, cmdErr := false, intstat := 0, inten := 0 }
        table :=
          { id := ⟨0, s.cfg.idWaitReset, ⟨0, false, false⟩⟩, req := ⟨500, 100, ⟨0, false, false⟩⟩
            wd := ⟨60000, 2000, ⟨0, true, true⟩⟩, data := ⟨0, 2000, ⟨2000, true, false⟩⟩ }
        frx := { rxs := .idle, rb := Vector.replicate 10 0, rn := 0, rk := .id, rd := .request, rsd := false }
        seq :=
          { astate := if nv ≠ s.cfg.unassigned then .assigned else .unassigned
            txn := ⟨txn, txn, txn, txn⟩, infl := false, scls := .id, wcnt := 0 }
        out := { s.out with irq := false }
        inputs := s.inputs }
end

