-- ==== Sys2Proof/Laws/State.lean ====
section
/-! SUPPORT. One lemma per field per update of the state, and the laws of the per-class entries.
-/
namespace Sys2Proof

@[simp] theorem PerClass.get_set_self {α : Type} (p : PerClass α) (c : MsgClass) (x : α) : (p.set c x).get c = x := by
  cases c <;> rfl

theorem PerClass.get_set_of_ne {α : Type} (p : PerClass α) {c k : MsgClass} (x : α) (h : k ≠ c) :
    (p.set c x).get k = p.get k := by
  cases c <;> cases k <;> first | rfl | exact absurd rfl h

@[simp] theorem PerClass.set_set {α : Type} (p : PerClass α) (c : MsgClass) (x y : α) :
    (p.set c x).set c y = p.set c y := by
  cases c <;> rfl

@[simp] theorem PerClass.set_get {α : Type} (p : PerClass α) (c : MsgClass) : p.set c (p.get c) = p := by
  cases c <;> rfl

theorem PerClass.ext_get {α : Type} {p q : PerClass α} (h : ∀ c, p.get c = q.get c) : p = q := by
  cases p
  cases q
  have h1 := h .id
  have h2 := h .req
  have h3 := h .wd
  have h4 := h .data
  simp only [PerClass.get] at h1 h2 h3 h4
  simp [h1, h2, h3, h4]

namespace Machine

/-! ### Group updates -/

@[simp] theorem State.setHost_cfg (s : State) (x : HostRegs) : (s.setHost x).cfg = s.cfg := rfl
@[simp] theorem State.setHost_host (s : State) (x : HostRegs) : (s.setHost x).host = x := rfl
@[simp] theorem State.setHost_table (s : State) (x : HostRegs) : (s.setHost x).table = s.table := rfl
@[simp] theorem State.setHost_frx (s : State) (x : HostRegs) : (s.setHost x).frx = s.frx := rfl
@[simp] theorem State.setHost_seq (s : State) (x : HostRegs) : (s.setHost x).seq = s.seq := rfl
@[simp] theorem State.setHost_out (s : State) (x : HostRegs) : (s.setHost x).out = s.out := rfl
@[simp] theorem State.setHost_inputs (s : State) (x : HostRegs) : (s.setHost x).inputs = s.inputs := rfl

@[simp] theorem State.setTable_cfg (s : State) (x : PerClass TableRow) : (s.setTable x).cfg = s.cfg := rfl
@[simp] theorem State.setTable_host (s : State) (x : PerClass TableRow) : (s.setTable x).host = s.host := rfl
@[simp] theorem State.setTable_table (s : State) (x : PerClass TableRow) : (s.setTable x).table = x := rfl
@[simp] theorem State.setTable_frx (s : State) (x : PerClass TableRow) : (s.setTable x).frx = s.frx := rfl
@[simp] theorem State.setTable_seq (s : State) (x : PerClass TableRow) : (s.setTable x).seq = s.seq := rfl
@[simp] theorem State.setTable_out (s : State) (x : PerClass TableRow) : (s.setTable x).out = s.out := rfl
@[simp] theorem State.setTable_inputs (s : State) (x : PerClass TableRow) : (s.setTable x).inputs = s.inputs := rfl

@[simp] theorem State.setFrx_cfg (s : State) (x : Receiver) : (s.setFrx x).cfg = s.cfg := rfl
@[simp] theorem State.setFrx_host (s : State) (x : Receiver) : (s.setFrx x).host = s.host := rfl
@[simp] theorem State.setFrx_table (s : State) (x : Receiver) : (s.setFrx x).table = s.table := rfl
@[simp] theorem State.setFrx_frx (s : State) (x : Receiver) : (s.setFrx x).frx = x := rfl
@[simp] theorem State.setFrx_seq (s : State) (x : Receiver) : (s.setFrx x).seq = s.seq := rfl
@[simp] theorem State.setFrx_out (s : State) (x : Receiver) : (s.setFrx x).out = s.out := rfl
@[simp] theorem State.setFrx_inputs (s : State) (x : Receiver) : (s.setFrx x).inputs = s.inputs := rfl

@[simp] theorem State.setSeq_cfg (s : State) (x : Sequencer) : (s.setSeq x).cfg = s.cfg := rfl
@[simp] theorem State.setSeq_host (s : State) (x : Sequencer) : (s.setSeq x).host = s.host := rfl
@[simp] theorem State.setSeq_table (s : State) (x : Sequencer) : (s.setSeq x).table = s.table := rfl
@[simp] theorem State.setSeq_frx (s : State) (x : Sequencer) : (s.setSeq x).frx = s.frx := rfl
@[simp] theorem State.setSeq_seq (s : State) (x : Sequencer) : (s.setSeq x).seq = x := rfl
@[simp] theorem State.setSeq_out (s : State) (x : Sequencer) : (s.setSeq x).out = s.out := rfl
@[simp] theorem State.setSeq_inputs (s : State) (x : Sequencer) : (s.setSeq x).inputs = s.inputs := rfl

@[simp] theorem State.setOut_cfg (s : State) (x : Outputs) : (s.setOut x).cfg = s.cfg := rfl
@[simp] theorem State.setOut_host (s : State) (x : Outputs) : (s.setOut x).host = s.host := rfl
@[simp] theorem State.setOut_table (s : State) (x : Outputs) : (s.setOut x).table = s.table := rfl
@[simp] theorem State.setOut_frx (s : State) (x : Outputs) : (s.setOut x).frx = s.frx := rfl
@[simp] theorem State.setOut_seq (s : State) (x : Outputs) : (s.setOut x).seq = s.seq := rfl
@[simp] theorem State.setOut_out (s : State) (x : Outputs) : (s.setOut x).out = x := rfl
@[simp] theorem State.setOut_inputs (s : State) (x : Outputs) : (s.setOut x).inputs = s.inputs := rfl

@[simp] theorem State.setInputs_cfg (s : State) (x : List Input) : (s.setInputs x).cfg = s.cfg := rfl
@[simp] theorem State.setInputs_host (s : State) (x : List Input) : (s.setInputs x).host = s.host := rfl
@[simp] theorem State.setInputs_table (s : State) (x : List Input) : (s.setInputs x).table = s.table := rfl
@[simp] theorem State.setInputs_frx (s : State) (x : List Input) : (s.setInputs x).frx = s.frx := rfl
@[simp] theorem State.setInputs_seq (s : State) (x : List Input) : (s.setInputs x).seq = s.seq := rfl
@[simp] theorem State.setInputs_out (s : State) (x : List Input) : (s.setInputs x).out = s.out := rfl
@[simp] theorem State.setInputs_inputs (s : State) (x : List Input) : (s.setInputs x).inputs = x := rfl

/-! ### Transactions, ASTATE and interrupt bits -/

@[simp] theorem State.setTxn_cfg (s : State) (c : MsgClass) (t : Txn) : (s.setTxn c t).cfg = s.cfg := rfl
@[simp] theorem State.setTxn_host (s : State) (c : MsgClass) (t : Txn) : (s.setTxn c t).host = s.host := rfl
@[simp] theorem State.setTxn_table (s : State) (c : MsgClass) (t : Txn) : (s.setTxn c t).table = s.table := rfl
@[simp] theorem State.setTxn_frx (s : State) (c : MsgClass) (t : Txn) : (s.setTxn c t).frx = s.frx := rfl
@[simp] theorem State.setTxn_out (s : State) (c : MsgClass) (t : Txn) : (s.setTxn c t).out = s.out := rfl
@[simp] theorem State.setTxn_inputs (s : State) (c : MsgClass) (t : Txn) : (s.setTxn c t).inputs = s.inputs := rfl
@[simp] theorem State.setTxn_astate (s : State) (c : MsgClass) (t : Txn) : (s.setTxn c t).seq.astate = s.seq.astate := rfl
@[simp] theorem State.setTxn_infl (s : State) (c : MsgClass) (t : Txn) : (s.setTxn c t).seq.infl = s.seq.infl := rfl
@[simp] theorem State.setTxn_scls (s : State) (c : MsgClass) (t : Txn) : (s.setTxn c t).seq.scls = s.seq.scls := rfl
@[simp] theorem State.setTxn_wcnt (s : State) (c : MsgClass) (t : Txn) : (s.setTxn c t).seq.wcnt = s.seq.wcnt := rfl
@[simp] theorem State.txn_setTxn_self (s : State) (c : MsgClass) (t : Txn) : (s.setTxn c t).txn c = t := by
  simp [State.txn, State.setTxn]

theorem State.txn_setTxn_of_ne (s : State) {c k : MsgClass} (t : Txn) (h : k ≠ c) : (s.setTxn c t).txn k = s.txn k := by
  simp [State.txn, State.setTxn, PerClass.get_set_of_ne _ _ h]

theorem State.txn_setTxn (s : State) (c k : MsgClass) (t : Txn) :
    (s.setTxn c t).txn k = if k = c then t else s.txn k := by
  by_cases h : k = c
  · subst h
    simp
  · simp [h, State.txn_setTxn_of_ne]

@[simp] theorem State.setAState_cfg (s : State) (a : AState) : (s.setAState a).cfg = s.cfg := rfl
@[simp] theorem State.setAState_host (s : State) (a : AState) : (s.setAState a).host = s.host := rfl
@[simp] theorem State.setAState_table (s : State) (a : AState) : (s.setAState a).table = s.table := rfl
@[simp] theorem State.setAState_frx (s : State) (a : AState) : (s.setAState a).frx = s.frx := rfl
@[simp] theorem State.setAState_out (s : State) (a : AState) : (s.setAState a).out = s.out := rfl
@[simp] theorem State.setAState_inputs (s : State) (a : AState) : (s.setAState a).inputs = s.inputs := rfl
@[simp] theorem State.setAState_infl (s : State) (a : AState) : (s.setAState a).seq.infl = s.seq.infl := rfl
@[simp] theorem State.setAState_scls (s : State) (a : AState) : (s.setAState a).seq.scls = s.seq.scls := rfl
@[simp] theorem State.setAState_wcnt (s : State) (a : AState) : (s.setAState a).seq.wcnt = s.seq.wcnt := rfl
@[simp] theorem State.setAState_astate (s : State) (a : AState) : (s.setAState a).seq.astate = a := rfl
@[simp] theorem State.setAState_txn (s : State) (a : AState) (c : MsgClass) : (s.setAState a).txn c = s.txn c := rfl
@[simp] theorem State.raise_cfg (s : State) (b : IntSource) : (s.raise b).cfg = s.cfg := rfl
@[simp] theorem State.raise_table (s : State) (b : IntSource) : (s.raise b).table = s.table := rfl
@[simp] theorem State.raise_frx (s : State) (b : IntSource) : (s.raise b).frx = s.frx := rfl
@[simp] theorem State.raise_seq (s : State) (b : IntSource) : (s.raise b).seq = s.seq := rfl
@[simp] theorem State.raise_out (s : State) (b : IntSource) : (s.raise b).out = s.out := rfl
@[simp] theorem State.raise_inputs (s : State) (b : IntSource) : (s.raise b).inputs = s.inputs := rfl
@[simp] theorem State.raise_host_ctrl (s : State) (b : IntSource) : (s.raise b).host.ctrl = s.host.ctrl := rfl
@[simp] theorem State.raise_host_addr (s : State) (b : IntSource) : (s.raise b).host.addr = s.host.addr := rfl
@[simp] theorem State.raise_host_idcfg (s : State) (b : IntSource) : (s.raise b).host.idcfg = s.host.idcfg := rfl
@[simp] theorem State.raise_host_sval (s : State) (b : IntSource) : (s.raise b).host.sval = s.host.sval := rfl
@[simp] theorem State.raise_host_cnt (s : State) (b : IntSource) : (s.raise b).host.cnt = s.host.cnt := rfl
@[simp] theorem State.raise_host_rtdIn (s : State) (b : IntSource) : (s.raise b).host.rtdIn = s.host.rtdIn := rfl
@[simp] theorem State.raise_host_txcfg (s : State) (b : IntSource) : (s.raise b).host.txcfg = s.host.txcfg := rfl
@[simp] theorem State.raise_host_txaddr (s : State) (b : IntSource) : (s.raise b).host.txaddr = s.host.txaddr := rfl
@[simp] theorem State.raise_host_rxinfo (s : State) (b : IntSource) : (s.raise b).host.rxinfo = s.host.rxinfo := rfl
@[simp] theorem State.raise_host_rxbuf0 (s : State) (b : IntSource) : (s.raise b).host.rxbuf0 = s.host.rxbuf0 := rfl
@[simp] theorem State.raise_host_rxbuf1 (s : State) (b : IntSource) : (s.raise b).host.rxbuf1 = s.host.rxbuf1 := rfl
@[simp] theorem State.raise_host_rxbuf2 (s : State) (b : IntSource) : (s.raise b).host.rxbuf2 = s.host.rxbuf2 := rfl
@[simp] theorem State.raise_host_rxfValid (s : State) (b : IntSource) : (s.raise b).host.rxfValid = s.host.rxfValid := rfl
@[simp] theorem State.raise_host_rxOvr (s : State) (b : IntSource) : (s.raise b).host.rxOvr = s.host.rxOvr := rfl
@[simp] theorem State.raise_host_cmdErr (s : State) (b : IntSource) : (s.raise b).host.cmdErr = s.host.cmdErr := rfl
@[simp] theorem State.raise_host_inten (s : State) (b : IntSource) : (s.raise b).host.inten = s.host.inten := rfl
@[simp] theorem State.raise_host_intstat (s : State) (b : IntSource) :
    (s.raise b).host.intstat = raiseInt b s.host.intstat := rfl
@[simp] theorem State.setHost_txn (s : State) (x : HostRegs) (c : MsgClass) : (s.setHost x).txn c = s.txn c := rfl
@[simp] theorem State.setTable_txn (s : State) (x : PerClass TableRow) (c : MsgClass) : (s.setTable x).txn c = s.txn c := rfl
@[simp] theorem State.setFrx_txn (s : State) (x : Receiver) (c : MsgClass) : (s.setFrx x).txn c = s.txn c := rfl
@[simp] theorem State.setOut_txn (s : State) (x : Outputs) (c : MsgClass) : (s.setOut x).txn c = s.txn c := rfl
@[simp] theorem State.setInputs_txn (s : State) (x : List Input) (c : MsgClass) : (s.setInputs x).txn c = s.txn c := rfl
@[simp] theorem State.raise_txn (s : State) (b : IntSource) (c : MsgClass) : (s.raise b).txn c = s.txn c := rfl

end Machine
end Sys2Proof
end

