-- ==== Sys2Proof/Laws/Ops.lean ====
section
/-! SUPPORT. What each shared operation changes, said once, so that no later proof unfolds it.
-/
namespace Sys2Proof.Machine
open Sys2Proof

/-! ### Saturation and interrupt bits -/

/-- sat_w(v + 1) as a number (R7). -/
theorem satInc_toNat {w : Nat} (v : BitVec w) : (satInc v).toNat = min (v.toNat + 1) (2 ^ w - 1) := by
  have hv := v.isLt
  unfold satInc
  split
  · next h =>
    subst h
    simp only [BitVec.toNat_allOnes] at *
    omega
  · next h =>
    have hne : v.toNat ≠ 2 ^ w - 1 := fun he => h (BitVec.eq_of_toNat_eq (by simp [he]))
    rw [BitVec.toNat_add]
    have h1 : (1 : BitVec w).toNat = 1 % 2 ^ w := by simp
    rw [h1]
    rcases Nat.lt_or_ge 1 (2 ^ w) with hw | hw
    · rw [Nat.mod_eq_of_lt hw, Nat.mod_eq_of_lt (by omega)]
      omega
    · have : 2 ^ w = 1 := le_antisymm hw Nat.one_le_two_pow
      omega

/-- Raising a bit sets that bit and no other (R41). -/
theorem raiseInt_getLsbD (b : IntSource) (v : BitVec 6) (i : Nat) :
    (raiseInt b v).getLsbD i = (v.getLsbD i || decide (i = b.bit)) := by
  unfold raiseInt
  rw [BitVec.getLsbD_or, BitVec.getLsbD_twoPow]
  have hb : b.bit < 6 := by cases b <;> decide
  simp [hb, eq_comm]

/-- Raising a bit leaves every other bit (R41). -/
theorem raiseInt_getLsbD_of_ne {b : IntSource} {i : Nat} (h : i ≠ b.bit) (v : BitVec 6) :
    (raiseInt b v).getLsbD i = v.getLsbD i := by
  rw [raiseInt_getLsbD]
  simp [h]

/-! ### Events (R251): every group but the host registers is left alone -/

@[simp] theorem countEvent_cfg (e : Event) (s : State) : (countEvent e s).cfg = s.cfg := by cases e <;> rfl
@[simp] theorem countEvent_table (e : Event) (s : State) : (countEvent e s).table = s.table := by cases e <;> rfl
@[simp] theorem countEvent_frx (e : Event) (s : State) : (countEvent e s).frx = s.frx := by cases e <;> rfl
@[simp] theorem countEvent_seq (e : Event) (s : State) : (countEvent e s).seq = s.seq := by cases e <;> rfl
@[simp] theorem countEvent_out (e : Event) (s : State) : (countEvent e s).out = s.out := by cases e <;> rfl
@[simp] theorem countEvent_inputs (e : Event) (s : State) : (countEvent e s).inputs = s.inputs := by cases e <;> rfl
@[simp] theorem countEvent_ctrl (e : Event) (s : State) : (countEvent e s).host.ctrl = s.host.ctrl := by cases e <;> rfl
@[simp] theorem countEvent_addr (e : Event) (s : State) : (countEvent e s).host.addr = s.host.addr := by cases e <;> rfl
@[simp] theorem countEvent_inten (e : Event) (s : State) : (countEvent e s).host.inten = s.host.inten := by cases e <;> rfl
@[simp] theorem countEvent_txn (e : Event) (s : State) (c : MsgClass) : (countEvent e s).txn c = s.txn c := by cases e <;> rfl

/-! ### Emission -/

@[simp] theorem emitFrame_txlog (f : List Byte) (s : State) : (emitFrame f s).out.txlog = s.out.txlog ++ [f] := rfl
@[simp] theorem emitFrame_nvlog (f : List Byte) (s : State) : (emitFrame f s).out.nvlog = s.out.nvlog := rfl
@[simp] theorem emitFrame_rdlog (f : List Byte) (s : State) : (emitFrame f s).out.rdlog = s.out.rdlog := rfl
@[simp] theorem emitFrame_cfg (f : List Byte) (s : State) : (emitFrame f s).cfg = s.cfg := rfl
@[simp] theorem emitFrame_host (f : List Byte) (s : State) : (emitFrame f s).host = s.host := rfl
@[simp] theorem emitFrame_table (f : List Byte) (s : State) : (emitFrame f s).table = s.table := rfl
@[simp] theorem emitFrame_frx (f : List Byte) (s : State) : (emitFrame f s).frx = s.frx := rfl
@[simp] theorem emitFrame_seq (f : List Byte) (s : State) : (emitFrame f s).seq = s.seq := rfl
@[simp] theorem emitFrame_inputs (f : List Byte) (s : State) : (emitFrame f s).inputs = s.inputs := rfl
@[simp] theorem emitNv_nvlog (a : Addr) (s : State) : (emitNv a s).out.nvlog = s.out.nvlog ++ [a] := rfl
@[simp] theorem emitNv_txlog (a : Addr) (s : State) : (emitNv a s).out.txlog = s.out.txlog := rfl
@[simp] theorem emitNv_cfg (a : Addr) (s : State) : (emitNv a s).cfg = s.cfg := rfl
@[simp] theorem emitNv_host (a : Addr) (s : State) : (emitNv a s).host = s.host := rfl
@[simp] theorem emitNv_table (a : Addr) (s : State) : (emitNv a s).table = s.table := rfl
@[simp] theorem emitNv_frx (a : Addr) (s : State) : (emitNv a s).frx = s.frx := rfl
@[simp] theorem emitNv_seq (a : Addr) (s : State) : (emitNv a s).seq = s.seq := rfl
@[simp] theorem emitNv_inputs (a : Addr) (s : State) : (emitNv a s).inputs = s.inputs := rfl
@[simp] theorem emitRead_rdlog (r : Word) (s : State) : (emitRead r s).out.rdlog = s.out.rdlog ++ [r] := rfl
@[simp] theorem emitRead_txlog (r : Word) (s : State) : (emitRead r s).out.txlog = s.out.txlog := rfl
@[simp] theorem emitRead_nvlog (r : Word) (s : State) : (emitRead r s).out.nvlog = s.out.nvlog := rfl
@[simp] theorem emitRead_cfg (r : Word) (s : State) : (emitRead r s).cfg = s.cfg := rfl
@[simp] theorem emitRead_host (r : Word) (s : State) : (emitRead r s).host = s.host := rfl
@[simp] theorem emitRead_table (r : Word) (s : State) : (emitRead r s).table = s.table := rfl
@[simp] theorem emitRead_frx (r : Word) (s : State) : (emitRead r s).frx = s.frx := rfl
@[simp] theorem emitRead_seq (r : Word) (s : State) : (emitRead r s).seq = s.seq := rfl
@[simp] theorem emitRead_inputs (r : Word) (s : State) : (emitRead r s).inputs = s.inputs := rfl

/-! ### The slot and the transactions -/

/-- Freeing the slot of class `c` changes INFL alone, and only where `c` holds it. -/
theorem freeSlotOf_eq (c : MsgClass) (s : State) :
    freeSlotOf c s = s.setSeq { s.seq with infl := s.seq.infl && decide (s.seq.scls ≠ c) } := by
  unfold freeSlotOf
  split
  · next h => simp [h.1, h.2]
  · next h =>
    have : (s.seq.infl && decide (s.seq.scls ≠ c)) = s.seq.infl := by
      cases hi : s.seq.infl
      · rfl
      · simp only [hi, true_and] at h
        simp [h]
    rw [this]
    rfl

/-- NewTxn(c) in full (R112): what it leaves in the sequencer; no other group changes. -/
theorem newTxn_eq (c : MsgClass) (s : State) :
    newTxn c s = s.setSeq
      { s.seq with
        infl := s.seq.infl && decide (s.seq.scls ≠ c)
        txn := s.seq.txn.set c { s.txn c with active := true, pend := true, sent := false, elap := 0, tf := composeSeq s c } } := by
  unfold newTxn
  rw [freeSlotOf_eq]
  rfl

/-- EndTxn(c) in full (R121). -/
theorem endTxn_eq (c : MsgClass) (s : State) :
    endTxn c s = s.setSeq
      { s.seq with
        infl := s.seq.infl && decide (s.seq.scls ≠ c)
        txn := s.seq.txn.set c { s.txn c with active := false, pend := false, sent := false, elap := 0 } } := by
  unfold endTxn
  rw [freeSlotOf_eq]
  rfl

/-- A transaction ended and its period counter cleared. -/
def Txn.cleared (t : Txn) : Txn :=
  { t with active := false, pend := false, sent := false, elap := 0, pcnt := 0 }

/-- A class's transaction ended and its period counter cleared, as UNASSIGN and a class disable do (R123, R125). -/
theorem clearPcnt_endTxn_eq (c : MsgClass) (s : State) :
    clearPcnt c (endTxn c s) = s.setSeq
      { s.seq with
        infl := s.seq.infl && decide (s.seq.scls ≠ c)
        txn := s.seq.txn.set c (s.txn c).cleared } := by
  rw [endTxn_eq, clearPcnt]
  simp only [State.setTxn, State.txn, PerClass.get_set_self, PerClass.set_set, State.setSeq_seq]
  rfl

/-- CancelAll() in full (R123). -/
theorem cancelAll_eq (s : State) :
    cancelAll s = s.setSeq
      { astate := s.seq.astate
        txn := ⟨s.seq.txn.id.cleared, s.seq.txn.req.cleared, s.seq.txn.wd.cleared, s.seq.txn.data.cleared⟩
        infl := false
        scls := .id
        wcnt := 0 } := by
  simp only [cancelAll, classes, List.foldl_cons, List.foldl_nil, clearPcnt_endTxn_eq]
  rfl

/-! ### Arbitration and the end of a step -/

/-- What arbitration can do (R114): nothing, or the grant of the free slot to one sendable class. -/
theorem arbitrate_cases (s : State) :
    (arbitrate s = s ∧ (s.host.ctrl.seqEn = true → s.seq.infl = false → ∀ c, s.sendable c = false)) ∨
    (∃ c, s.host.ctrl.seqEn = true ∧ s.seq.infl = false ∧ s.sendable c = true ∧ arbitrate s = grant c s) := by
  unfold arbitrate
  split
  · next h =>
    cases hf : priority.find? s.sendable with
    | some c => exact .inr ⟨c, h.1, h.2, by simpa using List.find?_some hf, rfl⟩
    | none =>
      refine .inl ⟨rfl, fun _ _ c => ?_⟩
      have := List.find?_eq_none.mp hf c (by cases c <;> simp [priority])
      simpa using this
  · next h => exact .inl ⟨rfl, fun h1 h2 => absurd ⟨h1, h2⟩ h⟩

@[simp] theorem grant_cfg (c : MsgClass) (s : State) : (grant c s).cfg = s.cfg := rfl
@[simp] theorem grant_host (c : MsgClass) (s : State) : (grant c s).host = s.host := rfl
@[simp] theorem grant_table (c : MsgClass) (s : State) : (grant c s).table = s.table := rfl
@[simp] theorem grant_frx (c : MsgClass) (s : State) : (grant c s).frx = s.frx := rfl
@[simp] theorem grant_inputs (c : MsgClass) (s : State) : (grant c s).inputs = s.inputs := rfl
@[simp] theorem grant_infl (c : MsgClass) (s : State) : (grant c s).seq.infl = true := rfl
@[simp] theorem grant_scls (c : MsgClass) (s : State) : (grant c s).seq.scls = c := rfl
@[simp] theorem grant_wcnt (c : MsgClass) (s : State) : (grant c s).seq.wcnt = 0 := rfl
@[simp] theorem grant_astate (c : MsgClass) (s : State) : (grant c s).seq.astate = s.seq.astate := rfl
@[simp] theorem grant_txlog (c : MsgClass) (s : State) : (grant c s).out.txlog = s.out.txlog ++ [(s.txn c).tf] := rfl
@[simp] theorem grant_nvlog (c : MsgClass) (s : State) : (grant c s).out.nvlog = s.out.nvlog := rfl
@[simp] theorem grant_rdlog (c : MsgClass) (s : State) : (grant c s).out.rdlog = s.out.rdlog := rfl
theorem grant_txn (c k : MsgClass) (s : State) :
    (grant c s).txn k =
      if k = c then { s.txn c with pend := false, sent := true, elap := if (s.txn c).sent then (s.txn c).elap else 0 }
      else s.txn k := by
  simp only [grant, State.txn_setTxn]
  rfl

@[simp] theorem arbitrate_cfg (s : State) : (arbitrate s).cfg = s.cfg := by
  rcases arbitrate_cases s with ⟨h, -⟩ | ⟨c, -, -, -, h⟩ <;> simp [h]
@[simp] theorem arbitrate_host (s : State) : (arbitrate s).host = s.host := by
  rcases arbitrate_cases s with ⟨h, -⟩ | ⟨c, -, -, -, h⟩ <;> simp [h]
@[simp] theorem arbitrate_table (s : State) : (arbitrate s).table = s.table := by
  rcases arbitrate_cases s with ⟨h, -⟩ | ⟨c, -, -, -, h⟩ <;> simp [h]
@[simp] theorem arbitrate_frx (s : State) : (arbitrate s).frx = s.frx := by
  rcases arbitrate_cases s with ⟨h, -⟩ | ⟨c, -, -, -, h⟩ <;> simp [h]
@[simp] theorem arbitrate_inputs (s : State) : (arbitrate s).inputs = s.inputs := by
  rcases arbitrate_cases s with ⟨h, -⟩ | ⟨c, -, -, -, h⟩ <;> simp [h]
@[simp] theorem arbitrate_astate (s : State) : (arbitrate s).seq.astate = s.seq.astate := by
  rcases arbitrate_cases s with ⟨h, -⟩ | ⟨c, -, -, -, h⟩ <;> simp [h]
@[simp] theorem arbitrate_nvlog (s : State) : (arbitrate s).out.nvlog = s.out.nvlog := by
  rcases arbitrate_cases s with ⟨h, -⟩ | ⟨c, -, -, -, h⟩ <;> simp [h]
@[simp] theorem arbitrate_rdlog (s : State) : (arbitrate s).out.rdlog = s.out.rdlog := by
  rcases arbitrate_cases s with ⟨h, -⟩ | ⟨c, -, -, -, h⟩ <;> simp [h]

@[simp] theorem endOfStep_cfg (s : State) : (endOfStep s).cfg = s.cfg := by simp [endOfStep]
@[simp] theorem endOfStep_host (s : State) : (endOfStep s).host = s.host := by simp [endOfStep]
@[simp] theorem endOfStep_table (s : State) : (endOfStep s).table = s.table := by simp [endOfStep]
@[simp] theorem endOfStep_frx (s : State) : (endOfStep s).frx = s.frx := by simp [endOfStep]
@[simp] theorem endOfStep_inputs (s : State) : (endOfStep s).inputs = s.inputs := by simp [endOfStep]
@[simp] theorem endOfStep_seq (s : State) : (endOfStep s).seq = (arbitrate s).seq := rfl
@[simp] theorem endOfStep_txn (s : State) (c : MsgClass) : (endOfStep s).txn c = (arbitrate s).txn c := rfl
@[simp] theorem endOfStep_txlog (s : State) : (endOfStep s).out.txlog = (arbitrate s).out.txlog := rfl
@[simp] theorem endOfStep_nvlog (s : State) : (endOfStep s).out.nvlog = s.out.nvlog := by simp [endOfStep]
@[simp] theorem endOfStep_rdlog (s : State) : (endOfStep s).out.rdlog = s.out.rdlog := by simp [endOfStep]
@[simp] theorem endOfStep_irq (s : State) : (endOfStep s).out.irq = irqLevel s.host := by simp [endOfStep]

end Sys2Proof.Machine
end

