-- ==== Sys2Proof/Laws/Engine.lean ====
section
/-! SUPPORT. What the sequencer's operations, the end of a step and the response matching can do, said once.
-/
namespace Sys2Proof.Machine
open Sys2Proof

/-! ### The end of a step with nothing to arbitrate -/

/-- Nothing due: the sequencer is off, the slot is held, or no class is sendable. -/
def Quiet (s : State) : Prop := s.host.ctrl.seqEn = true → s.seq.infl = false → ∀ c, s.sendable c = false

theorem Settled.quiet {s : State} (h : Settled s) : Quiet s := h.arbitrated

/-- A state with the sequencer and SEQ_EN of a quiet one is quiet. -/
theorem Quiet.of_eq {s t : State} (h : Quiet s) (hc : t.host.ctrl.seqEn = s.host.ctrl.seqEn) (hq : t.seq = s.seq) :
    Quiet t := by
  intro h1 h2 c
  have := h (hc ▸ h1) (hq ▸ h2) c
  simpa [State.sendable, State.txn, hq] using this

/-- Arbitration leaves a quiet state alone. -/
theorem arbitrate_of_quiet {s : State} (h : Quiet s) : arbitrate s = s := by
  rcases arbitrate_cases s with ⟨h', -⟩ | ⟨c, h1, h2, h3, -⟩
  · exact h'
  · simp [h h1 h2 c] at h3

/-- The end of a step in a quiet state sets IRQ to its level and changes nothing else. -/
theorem endOfStep_of_quiet {s : State} (h : Quiet s) :
    endOfStep s = s.setOut { s.out with irq := irqLevel s.host } := by
  simp [endOfStep, arbitrate_of_quiet h]

/-- The end of a step leaves a settled state alone. -/
theorem endOfStep_of_settled {s : State} (h : Settled s) : endOfStep s = s := by
  rw [endOfStep_of_quiet h.quiet, ← h.irq]
  rfl

/-! ### Transactions, class by class -/

theorem newTxn_txn (c k : MsgClass) (s : State) :
    (newTxn c s).txn k =
      if k = c then { s.txn c with active := true, pend := true, sent := false, elap := 0, tf := composeSeq s c }
      else s.txn k := by
  rw [newTxn_eq]
  simp only [State.txn, State.setSeq_seq]
  split
  · next h => simp [h]
  · next h => rw [PerClass.get_set_of_ne _ _ h]

theorem endTxn_txn (c k : MsgClass) (s : State) :
    (endTxn c s).txn k =
      if k = c then { s.txn c with active := false, pend := false, sent := false, elap := 0 } else s.txn k := by
  rw [endTxn_eq]
  simp only [State.txn, State.setSeq_seq]
  split
  · next h => simp [h]
  · next h => rw [PerClass.get_set_of_ne _ _ h]

/-! ### Responses (R119, R120) -/

/-- What a validated frame can do to the sequencer: nothing, an accepted identification, or an acknowledged request. -/
theorem matchResponse_cases (k : MsgClass) (d : Direction) (fb : List Byte) (s : State) :
    matchResponse k d fb s = s ∨
    (s.host.ctrl.seqEn = true ∧ d = .response ∧ (s.txn k).active = true ∧ (s.txn k).sent = true ∧
      ((k = .id ∧ s.seq.astate = .requested ∧ frameAddr fb ≠ s.cfg.unassigned ∧
          matchResponse k d fb s = acceptIdentification (frameAddr fb) s) ∨
        (k ≠ .id ∧ frameAddr fb = s.host.addr ∧ matchResponse k d fb s = (endTxn k s).raise .ack))) := by
  unfold matchResponse
  split
  · exact .inl rfl
  · next h =>
    simp only [not_or, Bool.not_eq_false] at h
    obtain ⟨h1, h2, h3, h4⟩ := h
    have h5 : d = .response := by
      cases d
      · exact absurd rfl h2
      · rfl
    split
    · next hk =>
      by_cases ha : s.seq.astate = .requested ∧ frameAddr fb ≠ s.cfg.unassigned
      · exact .inr ⟨h1, h5, h3, h4, .inl ⟨hk, ha.1, ha.2, rfl⟩⟩
      · left
        unfold acceptIdentification
        rw [if_neg ha]
    · next hk =>
      split
      · next ha => exact .inr ⟨h1, h5, h3, h4, .inr ⟨hk, ha, rfl⟩⟩
      · exact .inl rfl

/-- An accepted identification in full (R120). -/
theorem acceptIdentification_eq {a : Addr} {s : State} (h : s.seq.astate = .requested ∧ a ≠ s.cfg.unassigned) :
    acceptIdentification a s =
      { s with
        host := { s.host with addr := a, intstat := raiseInt .assigned s.host.intstat }
        seq := { s.seq with
          astate := .assigned
          infl := s.seq.infl && decide (s.seq.scls ≠ .id)
          txn :=
            { id := { s.seq.txn.id with active := false, pend := false, sent := false, elap := 0 }
              req := { s.seq.txn.req with pcnt := 0 }
              wd := { s.seq.txn.wd with pcnt := 0 }
              data := s.seq.txn.data } }
        out := { s.out with nvlog := s.out.nvlog ++ [a] } } := by
  unfold acceptIdentification
  rw [if_pos h]
  simp only [endTxn_eq]
  rfl

/-- Response matching leaves every host register but ADDR and INTSTAT alone (R119, R120). -/
theorem matchResponse_host (k : MsgClass) (d : Direction) (fb : List Byte) (s : State) :
    (matchResponse k d fb s).host =
      { s.host with
        addr := (matchResponse k d fb s).host.addr, intstat := (matchResponse k d fb s).host.intstat } := by
  rcases matchResponse_cases k d fb s with h | ⟨-, -, -, -, ⟨-, ha, hu, h⟩ | ⟨-, -, h⟩⟩
  · rw [h]
  · rw [h, acceptIdentification_eq ⟨ha, hu⟩]
  · rw [h, endTxn_eq]
    rfl

@[simp] theorem matchResponse_frx (k : MsgClass) (d : Direction) (fb : List Byte) (s : State) :
    (matchResponse k d fb s).frx = s.frx := by
  rcases matchResponse_cases k d fb s with h | ⟨-, -, -, -, ⟨-, ha, hu, h⟩ | ⟨-, -, h⟩⟩
  · rw [h]
  · rw [h, acceptIdentification_eq ⟨ha, hu⟩]
  · rw [h, endTxn_eq]
    rfl

@[simp] theorem matchResponse_table (k : MsgClass) (d : Direction) (fb : List Byte) (s : State) :
    (matchResponse k d fb s).table = s.table := by
  rcases matchResponse_cases k d fb s with h | ⟨-, -, -, -, ⟨-, ha, hu, h⟩ | ⟨-, -, h⟩⟩
  · rw [h]
  · rw [h, acceptIdentification_eq ⟨ha, hu⟩]
  · rw [h, endTxn_eq]
    rfl

/-! ### The clocks (R116 to R118) -/

/-- What one class of the cadence can do: nothing, count the Tick, or start a transaction (R116). -/
theorem cadence_cases (c : MsgClass) (s : State) :
    (cadence c s = s ∧ ¬ (s.seq.astate = .assigned ∧ s.host.ctrl.en c = true ∧ s.period c ≠ 0)) ∨
    (s.seq.astate = .assigned ∧ s.host.ctrl.en c = true ∧ s.period c ≠ 0 ∧
      ((satInc (s.txn c).pcnt < s.period c ∧
          cadence c s = s.setTxn c { s.txn c with pcnt := satInc (s.txn c).pcnt }) ∨
        (s.period c ≤ satInc (s.txn c).pcnt ∧ cadence c s = newTxn c (clearPcnt c s)))) := by
  unfold cadence
  split
  · next h =>
    refine .inr ⟨h.1, h.2.1, h.2.2, ?_⟩
    dsimp only
    split
    · next hn => exact .inr ⟨hn, rfl⟩
    · next hn => exact .inl ⟨BitVec.not_le.mp hn, rfl⟩
  · next h => exact .inl ⟨rfl, h⟩

/-- A transaction one Tick older: its elapsed time runs once it is sent (R117). -/
def Txn.aged (t : Txn) : Txn :=
  if t.active = true ∧ t.sent = true then { t with elap := satInc t.elap } else t

@[simp] theorem Txn.aged_active (t : Txn) : t.aged.active = t.active := by unfold Txn.aged; split <;> rfl
@[simp] theorem Txn.aged_pend (t : Txn) : t.aged.pend = t.pend := by unfold Txn.aged; split <;> rfl
@[simp] theorem Txn.aged_sent (t : Txn) : t.aged.sent = t.sent := by unfold Txn.aged; split <;> rfl
@[simp] theorem Txn.aged_tf (t : Txn) : t.aged.tf = t.tf := by unfold Txn.aged; split <;> rfl
@[simp] theorem Txn.aged_pcnt (t : Txn) : t.aged.pcnt = t.pcnt := by unfold Txn.aged; split <;> rfl

/-- One class's elapsed time (R117). -/
theorem elapse_eq (c : MsgClass) (s : State) : elapse c s = s.setTxn c (s.txn c).aged := by
  unfold elapse Txn.aged
  split
  · rfl
  · cases c <;> rfl

/-- ElapsedStep() in full: every class ages, and nothing else changes (R117). -/
theorem elapsedStep_eq (s : State) :
    elapsedStep s = s.setSeq
      { s.seq with
        txn := ⟨s.seq.txn.id.aged, s.seq.txn.req.aged, s.seq.txn.wd.aged, s.seq.txn.data.aged⟩ } := by
  simp only [elapsedStep, classes, List.foldl_cons, List.foldl_nil, elapse_eq]
  rfl

/-- What the expiry of a wait can do: a resend falls due, or the transaction ends and its outcome is recorded (R118). -/
theorem expire_cases (c : MsgClass) (s : State) :
    let s1 := s.setSeq { s.seq with infl := false }
    (retryDue s c = true ∧ expire c s = s1.setTxn c { s1.txn c with pend := true }) ∨
    (retryDue s c = false ∧ c = .id ∧ expire c s = countEvent .idFail ((endTxn c s1).setAState .unassigned)) ∨
    (retryDue s c = false ∧ c ≠ .id ∧ expire c s = countEvent .txnFail (endTxn c s1)) := by
  unfold expire
  dsimp only
  cases hr : retryDue s c
  · by_cases hc : c = .id
    · exact .inr (.inl ⟨rfl, hc, by simp [hc]⟩)
    · exact .inr (.inr ⟨rfl, hc, by simp [hc]⟩)
  · exact .inl ⟨rfl, by simp⟩

/-! ### Enables (R124, R125) -/

/-- A class enable that falls clears that class's transaction, and nothing else happens (R125). -/
theorem classTransition_txn (old new : Ctrl) (s : State) (c k : MsgClass) :
    (classTransition old new s c).txn k =
      if k = c ∧ old.en c = true ∧ new.en c = false then (s.txn k).cleared else s.txn k := by
  unfold classTransition
  split
  · next h =>
    rw [clearPcnt_endTxn_eq]
    simp only [State.txn, State.setSeq_seq]
    by_cases e : k = c
    · subst e
      simp [h]
    · simp [e, PerClass.get_set_of_ne]
  · next h => simp [h]

end Sys2Proof.Machine
end

