-- ==== Sys2Proof/Laws/Operands.lean ====
section
/-! SUPPORT. The laws of the operand forms: byte lanes, frame shapes and the reference checksum.
-/
namespace Sys2Proof.Machine
open Sys2Proof

/-! ### Byte lanes (R63) -/

/-- The bits of four packed bytes. -/
theorem packLanes_getLsbD (b0 b1 b2 b3 : Byte) (i : Nat) :
    (packLanes b0 b1 b2 b3).getLsbD i =
      if i < 8 then b0.getLsbD i else if i < 16 then b1.getLsbD (i - 8)
      else if i < 24 then b2.getLsbD (i - 16) else b3.getLsbD (i - 24) := by
  have h : (packLanes b0 b1 b2 b3).getLsbD i = (b3 ++ b2 ++ b1 ++ b0 : BitVec (8 + 8 + 8 + 8)).getLsbD i := rfl
  rw [h, BitVec.getLsbD_append, BitVec.getLsbD_append, BitVec.getLsbD_append]
  by_cases h1 : i < 8
  · simp [h1]
  · by_cases h2 : i < 16
    · simp [h1, h2, show i - 8 < 8 by omega]
    · by_cases h3 : i < 24
      · simp [h1, h2, h3, show ¬ i - 8 < 8 by omega, show i - 16 < 8 by omega, show i - 8 - 8 = i - 16 by omega]
      · simp [h1, h2, h3, show ¬ i - 8 < 8 by omega, show ¬ i - 8 - 8 < 8 by omega,
          show i - 8 - 8 - 8 = i - 24 by omega]

/-- Lane j of four packed bytes is byte j. -/
theorem lane_packLanes (b0 b1 b2 b3 : Byte) (j : Nat) (hj : j < 4) :
    lane (packLanes b0 b1 b2 b3) j = [b0, b1, b2, b3].getD j 0 := by
  unfold lane
  apply BitVec.eq_of_getLsbD_eq
  intro i hi
  rw [BitVec.getLsbD_extractLsb', packLanes_getLsbD]
  obtain rfl | rfl | rfl | rfl : j = 0 ∨ j = 1 ∨ j = 2 ∨ j = 3 := by omega
  · simp [hi]
  · simp [hi, show ¬ 8 + i < 8 by omega, show 8 + i < 16 by omega]
  · simp [hi, show ¬ 16 + i < 8 by omega, show ¬ 16 + i < 16 by omega, show 16 + i < 24 by omega]
  · simp [hi, show ¬ 24 + i < 8 by omega, show ¬ 24 + i < 16 by omega, show ¬ 24 + i < 24 by omega]

/-! ### Frames (R192, R198, R199) -/

/-- A frame is its type, its payload, two checksum bytes and the delimiter. -/
theorem frame_length (c : Checksum) (t : Byte) (p : List Byte) : (frame c t p).length = p.length + 4 := by
  simp [frame]

/-- A frame ends at its own length. -/
theorem frame_endsAt (c : Checksum) (t : Byte) (p : List Byte) : endsAt c (frame c t p) (p.length + 4) = true := by
  simp [endsAt, frame, validAt]

/-- Every candidate length is 8, 9 or 10. -/
theorem candLens_range {k : MsgClass} {n : Nat} (h : n ∈ candLens k) : 8 ≤ n ∧ n ≤ maxLen k := by
  cases k <;> simp [candLens] at h <;> simp [maxLen] <;> omega

/-! ### The reference checksum (R203) -/

/-- The running byte sum shifts with its start. -/
theorem sum16_add (x : List Byte) (a d : BitVec 16) :
    x.foldl (fun acc v => acc + v.setWidth 16) (a + d) = x.foldl (fun acc v => acc + v.setWidth 16) a + d := by
  induction x generalizing a with
  | nil => rfl
  | cons y x ih =>
    simp only [List.foldl_cons]
    rw [show a + d + y.setWidth 16 = a + y.setWidth 16 + d by ac_rfl]
    exact ih _

/-- Replacing one byte moves the byte sum by the difference. -/
theorem sum16_set (x : List Byte) (p : Nat) (b : Byte) (a : BitVec 16) (hp : p < x.length) :
    (x.set p b).foldl (fun acc v => acc + v.setWidth 16) a + (x.getD p 0).setWidth 16 =
      x.foldl (fun acc v => acc + v.setWidth 16) a + b.setWidth 16 := by
  induction x generalizing p a with
  | nil => simp at hp
  | cons y x ih =>
    cases p with
    | zero =>
      simp only [List.set_cons_zero, List.foldl_cons, List.getD_cons_zero, ← sum16_add]
      congr 1
      ac_rfl
    | succ p =>
      simp only [List.set_cons_succ, List.foldl_cons, List.getD_cons_succ]
      exact ih p _ (by simpa using hp)

/-- REF_SUM16 has property P4 (R203). -/
theorem refSum16_p4 : P4 .refSum16 := by
  intro x p b hp hb he
  apply hb
  simp only [chk, refSum16, Prod.mk.injEq] at he
  have key := sum16_set x p b 0 hp
  generalize (x.set p b).foldl (fun acc v => acc + v.setWidth 16) (0 : BitVec 16) = s1 at he key
  generalize x.foldl (fun acc v => acc + v.setWidth 16) (0 : BitVec 16) = s2 at he key
  have hs : s1 = s2 := by
    apply BitVec.eq_of_getLsbD_eq
    intro i hi
    have h1 := congrArg (fun v => v.getLsbD (i - 8)) he.1
    have h2 := congrArg (fun v => v.getLsbD i) he.2
    simp only [BitVec.getLsbD_extractLsb'] at h1 h2
    by_cases h8 : i < 8
    · simpa [h8] using h2
    · have h3 : i - 8 < 8 := by omega
      have h4 : 8 + (i - 8) = i := by omega
      simpa [h3, h4] using h1
  rw [hs] at key
  have h := congrArg BitVec.toNat ((add_left_cancel key : (x.getD p 0).setWidth 16 = b.setWidth 16))
  have l1 := b.isLt
  have l2 := (x.getD p 0).isLt
  simp only [BitVec.toNat_setWidth] at h
  apply BitVec.eq_of_toNat_eq
  omega

end Sys2Proof.Machine
end

