-- ==== Sys2Proof/Laws/PerInstr.lean ====
section
/-! SUPPORT. What holds of every instruction as syntax, one lemma per constructor.
-/

/-- What an instruction puts on the wire: a wire frame is encoded as its own bytes, of a candidate length of its class; a
type byte as itself; every other instruction puts nothing there (R81, R91, R198). -/
def Sys2Proof.Laws.WireEncoding.Statement (i : Sys2Proof.Instr) : Prop :=
  ∀ (cfg : Sys2Proof.Config) (bs : List Sys2Proof.Byte), Sys2Proof.encode cfg i = .wire bs →
    (∃ k d, Sys2Proof.Machine.frameParts cfg i = some (k, d, bs) ∧ bs.length ∈ Sys2Proof.Machine.candLens k) ∨
    (∃ b, i = .unknownType b ∧ bs = [b])

namespace Sys2Proof.Laws.WireEncoding
open Sys2Proof Sys2Proof.Machine

theorem idReq (devtype mod0 mod1 mod2 : Byte) : Statement (.idReq devtype mod0 mod1 mod2) := by
  intro cfg bs h
  cases h
  exact .inl ⟨_, _, rfl, by simp [idReqFrame, frame, candLens]⟩
theorem idResp (a : Addr) : Statement (.idResp a) := by
  intro cfg bs h
  cases h
  exact .inl ⟨_, _, rfl, by simp [idRespFrame, frame, candLens, Addr.toList]⟩
theorem reqReq (a : Addr) (val : Byte) (batt : Option Byte) : Statement (.reqReq a val batt) := by
  intro cfg bs h
  cases h
  exact .inl ⟨_, _, rfl, by cases batt <;> simp [baseFrame, frame, candLens, Addr.toList]⟩
theorem reqResp (a : Addr) (val : Byte) (batt : Option Byte) : Statement (.reqResp a val batt) := by
  intro cfg bs h
  cases h
  exact .inl ⟨_, _, rfl, by cases batt <;> simp [baseFrame, frame, candLens, Addr.toList]⟩
theorem wdReq (a : Addr) (val : Byte) (batt : Option Byte) : Statement (.wdReq a val batt) := by
  intro cfg bs h
  cases h
  exact .inl ⟨_, _, rfl, by cases batt <;> simp [baseFrame, frame, candLens, Addr.toList]⟩
theorem wdResp (a : Addr) (val : Byte) (batt : Option Byte) : Statement (.wdResp a val batt) := by
  intro cfg bs h
  cases h
  exact .inl ⟨_, _, rfl, by cases batt <;> simp [baseFrame, frame, candLens, Addr.toList]⟩
theorem dataReq (a : Addr) (val : Byte) (batt : Option Byte) : Statement (.dataReq a val batt) := by
  intro cfg bs h
  cases h
  exact .inl ⟨_, _, rfl, by cases batt <;> simp [baseFrame, frame, candLens, Addr.toList]⟩
theorem dataResp (a : Addr) (val : Byte) (batt : Option Byte) : Statement (.dataResp a val batt) := by
  intro cfg bs h
  cases h
  exact .inl ⟨_, _, rfl, by cases batt <;> simp [baseFrame, frame, candLens, Addr.toList]⟩
theorem unknownType (code : Byte) : Statement (.unknownType code) := by
  intro cfg bs h
  cases h
  exact .inr ⟨_, rfl, rfl⟩
theorem nop : Statement .nop := by intro cfg bs h; cases h
theorem trigger : Statement .trigger := by intro cfg bs h; cases h
theorem dataEvent : Statement .dataEvent := by intro cfg bs h; cases h
theorem rxPop : Statement .rxPop := by intro cfg bs h; cases h
theorem unassign : Statement .unassign := by intro cfg bs h; cases h
theorem clrErr : Statement .clrErr := by intro cfg bs h; cases h
theorem txRaw : Statement .txRaw := by intro cfg bs h; cases h
theorem txLogical : Statement .txLogical := by intro cfg bs h; cases h
theorem reservedCmdLow (op : Byte) : Statement (.reservedCmdLow op) := by intro cfg bs h; cases h
theorem reservedCmdHigh (op : Byte) : Statement (.reservedCmdHigh op) := by intro cfg bs h; cases h
theorem rxByte (b : Byte) : Statement (.rxByte b) := by intro cfg bs h; cases h
theorem tick : Statement .tick := by intro cfg bs h; cases h
theorem reset (nv : Addr) : Statement (.reset nv) := by intro cfg bs h; cases h
theorem regRead (r : Reg) : Statement (.regRead r) := by intro cfg bs h; cases h
theorem regWrite (r : Reg) (v : Word) : Statement (.regWrite r v) := by intro cfg bs h; cases h

end Sys2Proof.Laws.WireEncoding
end

