-- ==== Sys2Proof/Laws/Receiver.lean ====
section
/-! SUPPORT. What the receiver can do with one byte, said once (R194 to R202).
-/
namespace Sys2Proof.Machine
open Sys2Proof

/-- A disabled receiver discards the byte (R194). -/
theorem receiveByte_of_disabled (b : Byte) {s : State} (h : s.host.ctrl.rxEn = false) : receiveByte b s = s := by
  simp [receiveByte, h]

/-- A byte where a frame would start is filler, an unknown type, or the type of a frame (R195). -/
theorem startFrame_cases (b : Byte) (s : State) :
    (b = DELIM ∧ startFrame b s = s) ∨
    (b ≠ DELIM ∧ classify s.cfg.tc b = none ∧
      startFrame b s = (countEvent .errType s).setFrx { s.frx with rxs := .hunt }) ∨
    (∃ k d, b ≠ DELIM ∧ classify s.cfg.tc b = some (k, d) ∧
      startFrame b s =
        s.setFrx { rxs := .collect, rb := s.frx.rb.setIfInBounds 0 b, rn := 1, rk := k, rd := d, rsd := false }) := by
  unfold startFrame
  by_cases hb : b = DELIM
  · exact .inl ⟨hb, if_pos hb⟩
  · rw [if_neg hb]
    rcases hc : classify s.cfg.tc b with _ | ⟨k, d⟩
    · exact .inr (.inl ⟨hb, rfl, by simp⟩)
    · exact .inr (.inr ⟨k, d, hb, rfl, rfl⟩)

/-- A byte inside a frame: a whole frame is delivered, a frame at its maximum length is discarded in one of three ways, or
the byte is stored (R196). -/
theorem collectByte_cases (b : Byte) (s : State) :
    let rb := s.frx.rb.setIfInBounds s.frx.rn b
    let n := s.frx.rn + 1
    let cand := b == DELIM && (candLens s.frx.rk).contains n
    let s1 := s.setFrx { s.frx with rb := rb, rn := 0, rsd := false }
    (cand = true ∧ validAt s.cfg.chk rb.toList n = true ∧
      collectByte b s = deliver n (s.setFrx { s.frx with rb := rb, rxs := .idle, rn := 0, rsd := false })) ∨
    (n = maxLen s.frx.rk ∧ b = DELIM ∧
      collectByte b s = (countEvent .errChk s1).setFrx { s1.frx with rxs := .idle }) ∨
    (n = maxLen s.frx.rk ∧ b ≠ DELIM ∧ s.frx.rsd = true ∧
      collectByte b s = startFrame b ((countEvent .errChk s1).setFrx { s1.frx with rxs := .idle })) ∨
    (n = maxLen s.frx.rk ∧ b ≠ DELIM ∧ s.frx.rsd = false ∧
      collectByte b s = (countEvent .errFrame s1).setFrx { s1.frx with rxs := .hunt }) ∨
    (n ≠ maxLen s.frx.rk ∧
      collectByte b s = s.setFrx { s.frx with rb := rb, rn := n, rsd := s.frx.rsd || cand }) := by
  intro rb n cand s1
  unfold collectByte
  dsimp only
  by_cases hv : (cand && validAt s.cfg.chk rb.toList n) = true
  · rw [if_pos hv]
    simp only [Bool.and_eq_true] at hv
    exact .inl ⟨hv.1, hv.2, rfl⟩
  · rw [if_neg hv]
    right
    by_cases hn : n = maxLen s.frx.rk
    · rw [if_pos hn]
      by_cases hb : b = DELIM
      · rw [if_pos hb]
        exact .inl ⟨hn, hb, by simp [s1, rb]⟩
      · rw [if_neg hb]
        cases hr : s.frx.rsd
        · exact .inr (.inr (.inl ⟨hn, hb, rfl, by simp [s1, rb]⟩))
        · exact .inr (.inl ⟨hn, hb, rfl, by simp [s1, rb]⟩)
    · rw [if_neg hn]
      refine .inr (.inr (.inr ⟨hn, ?_⟩))
      change (if cand then _ else _) = _
      cases hc : cand <;> simp [rb, n]

/-- A dispatched frame becomes the host's, or is lost to it where it still holds one; the sequencer sees it either way
(R200, R201). -/
theorem dispatchFrame_cases (fb : List Byte) (k : MsgClass) (d : Direction) (s : State) :
    (s.host.rxfValid = true ∧ dispatchFrame fb k d s = matchResponse k d fb (countEvent .rxOvr s)) ∨
    (s.host.rxfValid = false ∧ dispatchFrame fb k d s = matchResponse k d fb (s.setHost (holdFrame fb k d s.host))) := by
  unfold dispatchFrame
  cases h : s.host.rxfValid
  · exact .inr ⟨rfl, by simp⟩
  · exact .inl ⟨rfl, by simp⟩

end Sys2Proof.Machine
end

