-- ==== Sys2Proof/Tests/Slice0.lean ====
section
/-! SUPPORT. Tests: the well-formedness smoke tests, one decoding per constructor from a word written out from the spec's
encodings, single steps against spec/95_test_vectors.md, and one witness per statement that has hypotheses. Everything is
under the reference configuration (spec/30_encoding.md R98).
-/
namespace Sys2Proof.Tests
open Sys2Proof Sys2Proof.Machine

/-! ### Helpers -/

abbrev ref : Config := Config.reference

/-- Address A of the vectors. -/
def addrA : Addr := ⟨0x00, 0x01, 0x00, 0x01⟩

/-- The unassigned address of the reference configuration. -/
def addrU : Addr := ⟨0x30, 0x30, 0x30, 0x30⟩

/-- The state after one instruction. -/
def after (i : Instr) (s : State) : State :=
  match exec i s with
  | .next t => t
  | .fault _ => s
  | .refused _ => s

def fromA : State := State.resetWith ref addrA
def fromU : State := State.resetWith ref addrU

/-- CTRL written. -/
def ctl (v : Word) (s : State) : State := after (.regWrite .ctrl v) s

/-- ASSIGNED with everything enabled but the battery byte (CTRL = 0x3B). -/
def onA : State := ctl 0x3B fromA

/-- UNASSIGNED with the sequencer and the receiver on (CTRL = 0x03) and the identification of program P1. -/
def onU : State := ctl 0x03 (after (.regWrite .idcfg 0x44454C01) fromU)

/-- The receiver on, the sequencer off (CTRL = 0x02). -/
def rxU : State := ctl 0x02 fromU

/-- The identification request in flight (program P1). -/
def requested : State := after .trigger onU

/-- A data report in flight (program P3), no other class enabled (CTRL = 0x23). -/
def flyData : State := after .dataEvent (ctl 0x23 (after (.regWrite .sval 0x01) fromA))

/-- `s` with class `c` alone in flight. -/
def fly (c : MsgClass) (s : State) : State :=
  (s.setSeq { s.seq with infl := true, scls := c, wcnt := 0 }).setTxn c
    { active := true, pend := false, sent := true, elap := 0, tf := composeSeq s c, pcnt := 0 }

/-- `s` with class `c` due. -/
def due (c : MsgClass) (s : State) : State :=
  s.setTxn c { active := true, pend := true, sent := false, elap := 0, tf := composeSeq s c, pcnt := 0 }

/-- The receiver on, REQ_REQ '0' from A in the holding register. -/
def holding : State :=
  rxU.setHost (holdFrame (baseFrame ref .req .request addrA 0x30 none) .req .request rxU.host)

/-- `s` after some wire bytes. -/
def rx (bs : List Byte) (s : State) : State := receiveBytes bs s

/-- Settled, as a check. -/
def settledNow (s : State) : Bool :=
  !(s.host.ctrl.seqEn && !s.seq.infl && classes.any s.sendable) && s.out.irq == irqLevel s.host

theorem settled_of {s : State} (h : settledNow s = true) : Settled s := by
  simp only [settledNow, Bool.and_eq_true, Bool.not_eq_true', beq_iff_eq] at h
  refine ⟨fun h1 h2 c => ?_, h.2⟩
  have := h.1
  simp only [h1, h2, Bool.not_false, Bool.and_self, Bool.true_and, classes, List.any_cons, List.any_nil, Bool.or_false,
    Bool.or_eq_false_iff] at this
  cases c
  · exact this.1
  · exact this.2.1
  · exact this.2.2.1
  · exact this.2.2.2

/-! ### Well-formedness smoke: every check refuses its ill-formed term -/

/-- A type code is no unknown type (R91). -/
theorem test_wf_unknown_of_code : wellFormed ref (.unknownType 0x69) = false := by decide
/-- 0x0D is filler, no unknown type (R91). -/
theorem test_wf_unknown_delimiter : wellFormed ref (.unknownType 0x0D) = false := by decide
/-- 0x05 is CLR_ERR, 0x10 is TX_RAW (R93). -/
theorem test_wf_reserved_low :
    wellFormed ref (.reservedCmdLow 0x05) = false ∧ wellFormed ref (.reservedCmdLow 0x10) = false := by decide
/-- 0x11 is TX_LOGICAL (R93). -/
theorem test_wf_reserved_high : wellFormed ref (.reservedCmdHigh 0x11) = false := by decide
/-- 0x41 is no multiple of 4; 0x40 is PERIOD[ID] (R37, R61). -/
theorem test_wf_reserved_register :
    wellFormed ref (.regRead (.reserved 0x41)) = false ∧ wellFormed ref (.regWrite (.reserved 0x40) 0) = false := by decide
/-- A write to CMD is spelled as its command (R92). -/
theorem test_wf_cmd_write : wellFormed ref (.regWrite .cmd 1) = false := by decide
/-- A 10-byte frame that is taken as a 9-byte one is refused (R291), one clause per constructor. REF_SUM16 has no such frame
(257 * f[6] = the 6-byte sum gives an even CS1), so the clauses are about any configuration. -/
theorem test_wf_collision (cfg : Config) (a : Addr) (v b : Byte) :
    (endsAt cfg.chk (baseFrame cfg .req .request a v (some b)) 9 = true → wellFormed cfg (.reqReq a v (some b)) = false) ∧
    (endsAt cfg.chk (baseFrame cfg .req .response a v (some b)) 9 = true → wellFormed cfg (.reqResp a v (some b)) = false) ∧
    (endsAt cfg.chk (baseFrame cfg .wd .request a v (some b)) 9 = true → wellFormed cfg (.wdReq a v (some b)) = false) ∧
    (endsAt cfg.chk (baseFrame cfg .wd .response a v (some b)) 9 = true → wellFormed cfg (.wdResp a v (some b)) = false) ∧
    (endsAt cfg.chk (baseFrame cfg .data .request a v (some b)) 9 = true → wellFormed cfg (.dataReq a v (some b)) = false) ∧
    (endsAt cfg.chk (baseFrame cfg .data .response a v (some b)) 9 = true →
      wellFormed cfg (.dataResp a v (some b)) = false) := by
  simp +contextual [wellFormed, noCollision]

/-! ### Decoding: every constructor from a word of the spec (sections 1.2, 2.3 of 95_test_vectors.md; R23, R37, R93) -/

theorem test_decode_idReq :
    decode ref (.wire [0x49, 0x01, 0x4C, 0x45, 0x44, 0x01, 0x1F, 0x0D]) = .instr (.idReq 0x01 0x4C 0x45 0x44) [] := by decide
theorem test_decode_idResp :
    decode ref (.wire [0x69, 0x00, 0x01, 0x00, 0x01, 0x00, 0x6B, 0x0D]) = .instr (.idResp addrA) [] := by decide
theorem test_decode_reqReq :
    decode ref (.wire [0x52, 0x00, 0x01, 0x00, 0x01, 0x30, 0x35, 0x00, 0xB9, 0x0D]) =
      .instr (.reqReq addrA 0x30 (some 0x35)) [] := by decide
theorem test_decode_reqResp :
    decode ref (.wire [0x72, 0x00, 0x01, 0x00, 0x01, 0x31, 0x00, 0xA5, 0x0D]) = .instr (.reqResp addrA 0x31 none) [] := by
  decide
theorem test_decode_wdReq :
    decode ref (.wire [0x57, 0x00, 0x01, 0x00, 0x01, 0x30, 0x37, 0x00, 0xC0, 0x0D]) =
      .instr (.wdReq addrA 0x30 (some 0x37)) [] := by decide
theorem test_decode_wdResp :
    decode ref (.wire [0x77, 0x00, 0x01, 0x00, 0x02, 0x30, 0x00, 0xAA, 0x0D]) =
      .instr (.wdResp ⟨0x00, 0x01, 0x00, 0x02⟩ 0x30 none) [] := by decide
/-- One frame is taken, the rest of the wire is left. -/
theorem test_decode_dataReq :
    decode ref (.wire [0x44, 0x00, 0x01, 0x00, 0x01, 0x31, 0x00, 0x77, 0x0D, 0x52, 0x0D]) =
      .instr (.dataReq addrA 0x31 none) [.wire [0x52, 0x0D]] := by decide
/-- CS1 is 0x0D: the 9-byte candidate's checksum fails, the 10-byte one validates. -/
theorem test_decode_dataResp :
    decode ref (.wire [0x64, 0x00, 0x01, 0x00, 0x42, 0x31, 0x35, 0x01, 0x0D, 0x0D]) =
      .instr (.dataResp ⟨0x00, 0x01, 0x00, 0x42⟩ 0x31 (some 0x35)) [] := by decide
theorem test_decode_unknownType : decode ref (.wire [0x58, 0x01]) = .instr (.unknownType 0x58) [.wire [0x01]] := by decide
theorem test_decode_nop : decode ref (.regWrite 32 0x18 0xFFFFFF00) = .instr .nop [] := by decide
theorem test_decode_trigger : decode ref (.regWrite 32 0x18 0x00000001) = .instr .trigger [] := by decide
theorem test_decode_dataEvent : decode ref (.regWrite 32 0x18 0x00000002) = .instr .dataEvent [] := by decide
theorem test_decode_rxPop : decode ref (.regWrite 32 0x18 0x00000003) = .instr .rxPop [] := by decide
theorem test_decode_unassign : decode ref (.regWrite 32 0x18 0x00000004) = .instr .unassign [] := by decide
theorem test_decode_clrErr : decode ref (.regWrite 32 0x18 0x00000005) = .instr .clrErr [] := by decide
theorem test_decode_txRaw : decode ref (.regWrite 32 0x18 0x00000010) = .instr .txRaw [] := by decide
theorem test_decode_txLogical : decode ref (.regWrite 32 0x18 0x00000011) = .instr .txLogical [] := by decide
theorem test_decode_reservedCmdLow :
    decode ref (.regWrite 32 0x18 0x00000006) = .instr (.reservedCmdLow 0x06) [] ∧
    decode ref (.regWrite 32 0x18 0x0000000F) = .instr (.reservedCmdLow 0x0F) [] := by decide
theorem test_decode_reservedCmdHigh :
    decode ref (.regWrite 32 0x18 0x00000012) = .instr (.reservedCmdHigh 0x12) [] ∧
    decode ref (.regWrite 32 0x18 0x000000FF) = .instr (.reservedCmdHigh 0xFF) [] := by decide
theorem test_decode_events :
    decode ref (.rxByte 0x0D) = .instr (.rxByte 0x0D) [] ∧ decode ref .tick = .instr .tick [] ∧
    decode ref (.reset addrA) = .instr (.reset addrA) [] := by decide
theorem test_decode_regRead :
    decode ref (.regRead 32 0x68) = .instr (.regRead (.retry .wd)) [] ∧
    decode ref (.regRead 32 0xFC) = .instr (.regRead (.reserved 0xFC)) [] := by decide
theorem test_decode_regWrite :
    decode ref (.regWrite 32 0x24 0x00053009) = .instr (.regWrite .txcfg 0x00053009) [] ∧
    decode ref (.regWrite 32 0x70 7) = .instr (.regWrite (.period .data) 7) [] := by decide
/-- Refused accesses of section 2.6, and the wire inputs that are no instruction. -/
theorem test_decode_rejects :
    decode ref (.regRead 32 0x02) = .reject (.accessMisaligned 0x02) ∧
    decode ref (.regRead 32 0x100) = .reject (.accessOutsideWindow 0x100) ∧
    decode ref (.regWrite 16 0x00 0) = .reject (.accessWidth 16) ∧
    decode ref (.wire []) = .reject .wireEmpty ∧ decode ref (.wire [0x0D]) = .reject .wireFiller ∧
    decode ref (.wire [0x69, 0x00, 0x01, 0x00, 0x01, 0x00, 0x6C, 0x0D]) = .reject (.wireNoFrame 0x69) := by decide
/-- Every register decodes at its own offset (R23, R37). -/
theorem test_register_offsets :
    ([.ctrl, .status, .addr, .idcfg, .sval, .tcodes, .cmd, .cnt, .rtd, .txcfg, .txaddr, .rxinfo, .rxbuf0, .rxbuf1, .rxbuf2,
      .reserved 0x3C] : List Reg) = (List.range 16).map (fun j => regAt (4 * j)) ∧
    [Reg.intstat, Reg.inten, Reg.reserved 0x88] = [0x80, 0x84, 0x88].map regAt := by decide
/-- A host command word of the table (log entry 4). -/
theorem test_table_word :
    decodeTableWord 32 0x01 = some .trigger ∧ decodeTableWord 8 0x12 = some (.reservedCmdHigh 0x12) := ⟨rfl, rfl⟩

/-! ### Single steps (the values are those of 95_test_vectors.md at the section each test names) -/

/-- 2.5, good short: delivered, RXINFO 0x19, RXF. -/
theorem test_reqReq_delivered :
    let t := after (.reqReq addrA 0x30 none) rxU
    readReg t .rxinfo = 0x19 ∧ readReg t .rxbuf0 = 0x00010052 ∧ readReg t .rxbuf1 = 0x84003001 ∧
      readReg t .rxbuf2 = 0x0D ∧ readReg t .intstat = 0x01 ∧ readReg t .status = 0x20 := by decide
/-- 2.5, good long. -/
theorem test_dataReq_delivered :
    let t := after (.dataReq addrA 0x31 (some 0x37)) rxU
    readReg t .rxinfo = 0xBA ∧ readReg t .cnt = 0 := by decide
/-- 3.5: an identification request at the controller. -/
theorem test_idReq_delivered :
    let t := after (.idReq 0x01 0x4C 0x45 0x44) rxU
    readReg t .rxinfo = 0x08 ∧ readReg t .rxbuf0 = 0x454C0149 ∧ readReg t .rxbuf1 = 0x0D1F0144 := by decide
/-- 3.1: the identification response is accepted. -/
theorem test_idResp_accepted :
    let t := after (.idResp addrA) requested
    readReg t .status = 0x22 ∧ readReg t .intstat = 0x03 ∧ readReg t .addr = 0x01000100 ∧ t.out.nvlog = [addrA] := by
  decide
/-- 2.7: a response carrying the unassigned address is not accepted. -/
theorem test_idResp_unassigned :
    let t := after (.idResp addrU) requested
    readReg t .status = 0x2025 ∧ readReg t .intstat = 0x01 ∧ t.out.nvlog = [] := by decide
/-- 3.3: the acknowledgement of the data report. -/
theorem test_dataResp_acknowledges :
    let t := after (.dataResp addrA 0x30 none) flyData
    readReg t .status = 0x22 ∧ readReg t .intstat = 0x11 ∧ readReg t .rxinfo = 0x79 := by decide
/-- 3.2: a watchdog response from another address is delivered, and does not match. -/
theorem test_wdResp_other_address :
    let t := after (.wdResp ⟨0x00, 0x01, 0x00, 0x02⟩ 0x30 none) (fly .wd (ctl 0x13 fromA))
    readReg t .status = 0x8036 ∧ readReg t .intstat = 0x01 := by decide
/-- 2.7: with REQ waiting, the watchdog acknowledgement sends it in the same step. -/
theorem test_wdResp_frees_slot :
    let t := after (.wdResp addrA 0x30 none) (due .req (fly .wd (ctl 0x1B fromA)))
    readReg t .status = 0x402E ∧ t.out.txlog = [[0x52, 0x00, 0x01, 0x00, 0x01, 0x30, 0x00, 0x84, 0x0D]] := by decide
/-- 2.7: the poll's acknowledgement. -/
theorem test_reqResp_acknowledges :
    let t := after (.reqResp addrA 0x30 none) (fly .req (ctl 0x0B fromA))
    readReg t .status = 0x22 ∧ readReg t .intstat = 0x11 := by decide
/-- R200, R36: a watchdog request, one byte longer; overrun (2.5): the held frame stays. -/
theorem test_wdReq_overrun :
    let t := after (.wdReq addrA 0x30 (some 0x37)) holding
    readReg t .status = 0x60 ∧ readReg t .rxinfo = 0x19 ∧ readReg t .intstat = 0x21 := by decide
/-- 2.5: unknown type, and the hunt it starts. -/
theorem test_unknownType_counts :
    let t := after (.unknownType 0x58) rxU
    readReg t .cnt = 0x01 ∧ readReg t .intstat = 0x20 ∧ readReg t .status = 0x100 := by decide
/-- 3.1: TRIGGER sends the identification request. -/
theorem test_trigger_sends :
    readReg requested .status = 0x2005 ∧
      requested.out.txlog = [[0x49, 0x01, 0x4C, 0x45, 0x44, 0x01, 0x1F, 0x0D]] := by decide
/-- 3.3: DATA_EVENT sends the report. -/
theorem test_dataEvent_sends :
    readReg flyData .status = 0x1001E ∧
      flyData.out.txlog = [[0x44, 0x00, 0x01, 0x00, 0x01, 0x31, 0x00, 0x77, 0x0D]] := by decide
/-- 2.7: supersession with a battery byte, sent at once, no failure counted. -/
theorem test_dataEvent_supersedes :
    let t := after .dataEvent (after (.regWrite .sval 0x0500) (ctl 0x27 flyData))
    t.out.txlog.getLast? = some [0x44, 0x00, 0x01, 0x00, 0x01, 0x30, 0x35, 0x00, 0xAB, 0x0D] ∧ readReg t .cnt = 0 := by
  decide
/-- 2.7: UNASSIGN during a data report. -/
theorem test_unassign_clears :
    let t := after .unassign flyData
    readReg t .addr = 0x30303030 ∧ readReg t .status = 0 ∧ t.out.nvlog = [addrU] := by decide
/-- 2.5: RX_POP behind an overrun. -/
theorem test_rxPop_releases :
    readReg (after .rxPop (holding.setHost { holding.host with rxOvr := true })) .status = 0x40 := by decide
/-- 2.6: CLR_ERR clears CMD_ERR and leaves INTSTAT; reserved opcodes set both. -/
theorem test_reserved_then_clrErr :
    let s := after (.reservedCmdLow 0x07) fromU
    readReg s .status = 0x20000 ∧ readReg s .intstat = 0x20 ∧
      readReg (after .clrErr s) .status = 0 ∧ readReg (after .clrErr s) .intstat = 0x20 := by decide
/-- 2.6: IRQ follows an enabled bit. -/
theorem test_reservedHigh_irq : (after (.reservedCmdHigh 0xFF) (after (.regWrite .inten 0x20) fromU)).out.irq = true := by
  decide
/-- 2.4: TXCFG 0x00000D09 sends a raw 0x0D. -/
theorem test_txRaw_frame :
    (after .txRaw (after (.regWrite .txcfg 0xD09) (after (.regWrite .txaddr 0x01000100) fromU))).out.txlog =
      [[0x52, 0x00, 0x01, 0x00, 0x01, 0x0D, 0x30, 0x00, 0x91, 0x0D]] := by decide
/-- 2.4: TXCFG 0x00090D0D, encoded. -/
theorem test_txLogical_frame :
    (after .txLogical (after (.regWrite .txcfg 0x90D0D) (after (.regWrite .txaddr 0x01000100) fromU))).out.txlog =
      [[0x72, 0x00, 0x01, 0x00, 0x01, 0x31, 0x39, 0x00, 0xDE, 0x0D]] := by decide
/-- R224: NOP changes no register. -/
theorem test_nop : after .nop flyData = flyData := by decide
/-- 2.5: a 10-byte frame with no delimiter ends in ERR_FRAME and HUNT (program P4). -/
theorem test_rxByte_err_frame :
    let t := rx [0x52, 0x00, 0x01, 0x00, 0x01, 0x30, 0x00, 0x84, 0x00, 0x00] rxU
    readReg t .cnt = 0x10000 ∧ readReg t .status = 0x100 := by decide
/-- 2.8: one byte records ERR_CHK and ERR_TYPE. -/
theorem test_rxByte_two_events :
    readReg (rx [0x64, 0x00, 0x01, 0x00, 0x01, 0x31, 0x00, 0x96, 0x0D, 0x58] rxU) .cnt = 0x101 := by decide
/-- 2.7: the 500th Tick of the period sends the poll (from PCNT = 499). -/
theorem test_tick_period :
    let s := ctl 0x1B fromA
    let t := after .tick (s.setTxn .req { s.txn .req with pcnt := 499 })
    readReg t .status = 0x400E ∧ t.out.txlog = [[0x52, 0x00, 0x01, 0x00, 0x01, 0x30, 0x00, 0x84, 0x0D]] := by decide
/-- 2.7: the 100th Tick of an unanswered poll gives up (from WCNT = 99). -/
theorem test_tick_gives_up :
    let s := fly .req (ctl 0x1B fromA)
    let t := after .tick (s.setSeq { s.seq with wcnt := 99 })
    readReg t .status = 0x02 ∧ readReg t .cnt = 0x01000000 ∧ readReg t .intstat = 0x08 := by decide
/-- 2.9: a reset during a transaction keeps TXLOG. -/
theorem test_reset :
    let t := after (.reset addrA) flyData
    readReg t .status = 0x02 ∧ readReg t .addr = 0x01000100 ∧ t.out.txlog = flyData.out.txlog := by decide
/-- 2.1: RTD after a write of 0xFFFFFF52. -/
theorem test_regRead_rtd :
    (after (.regRead .rtd) (after (.regWrite .rtd 0xFFFFFF52) fromU)).out.rdlog = [0x00057252] := by decide
/-- 2.6: the table and the configuration at reset. -/
theorem test_regRead_reset :
    [Reg.wait .id, .period .req, .wait .req, .period .wd, .wait .wd, .retry .wd, .wait .data, .retry .data, .tcodes].map
        (readReg fromU) = [0xBB8, 0x1F4, 0x64, 0xEA60, 0x7D0, 0x30000, 0x7D0, 0x107D0, 0x44575249] := by decide
/-- 2.6: writable bits. -/
theorem test_regWrite_masks :
    readReg (after (.regWrite .txcfg 0xFFFFFFFF) fromU) .txcfg = 0x00FFFF0F ∧
      readReg (after (.regWrite .ctrl 0xFFFFFFFF) fromU) .ctrl = 0x3F ∧
      readReg (after (.regWrite (.period .req) 0xFFFF03E8) fromU) (.period .req) = 0x3E8 := by decide
/-- 2.7: SEQ_EN falls in REQUESTED. -/
theorem test_regWrite_disable :
    readReg (ctl 0x02 requested) .status = 0 ∧ (ctl 0x02 requested).out.txlog.length = 1 := by decide

/-! ### Witnesses: concrete states that meet the hypotheses of the statements, each clause at a boundary where it has one -/

theorem test_settled_states :
    Settled fromA ∧ Settled fromU ∧ Settled onA ∧ Settled onU ∧ Settled rxU ∧ Settled requested ∧ Settled flyData :=
  ⟨settled_of (by decide), settled_of (by decide), settled_of (by decide), settled_of (by decide), settled_of (by decide),
    settled_of (by decide), settled_of (by decide)⟩

theorem test_witness_DecodeEncodeEveryInstruction :
    wellFormed ref (.dataResp ⟨0x00, 0x01, 0x00, 0x42⟩ 0x31 (some 0x35)) = true ∧ wellFormed ref (.reservedCmdLow 0x06) = true ∧
    wellFormed ref (.reservedCmdLow 0x0F) = true ∧ wellFormed ref (.reservedCmdHigh 0x12) = true ∧
    wellFormed ref (.unknownType 0x58) = true ∧ wellFormed ref (.regWrite (.reserved 0xFC) 0) = true := by decide

theorem test_witness_StepRunsDecodedInstruction :
    let s := fromA.setInputs [.wire [0x58, 0x01], .tick]
    s.inputs = .wire [0x58, 0x01] :: [.tick] ∧
      decode s.cfg (.wire [0x58, 0x01]) = .instr (.unknownType 0x58) [.wire [0x01]] := ⟨rfl, by decide⟩

theorem test_witness_OnlyBadAccessesAreRefused :
    fromA.inputs = [] ∧ inputAllowed (.regRead 32 0xFC) ∧ inputAllowed (.wire []) ∧ ¬ inputAllowed (.regRead 32 0x100) ∧
    ¬ inputAllowed (.regRead 32 0x01) ∧ ¬ inputAllowed (.regWrite 16 0x00 0) := by
  simp [inputAllowed, accessAllowed, fromA, State.resetWith]

theorem test_witness_WireStreamIsItsBytes :
    (fromA.setInputs [.wire [], .tick]).inputs = .wire [] :: [.tick] ∧
    (fromA.setInputs [.wire [0x52, 0x0D]]).inputs = .wire [0x52, 0x0D] :: [] := ⟨rfl, rfl⟩

theorem test_witness_TxRawRoundTrip :
    let f := baseFrame ref .data .response ⟨0x00, 0x01, 0x00, 0x42⟩ 0x31 (some 0x39)
    let s := fromU.setHost { fromU.host with
      txcfg := ⟨.data, .response, true, 0x31, 9⟩, txaddr := ⟨0x00, 0x01, 0x00, 0x42⟩ }
    Settled s ∧ classify s.cfg.tc (f.getD 0 0) = some (.data, .response) ∧ f.length ∈ candLens .data ∧
    endsAt s.cfg.chk f f.length = true ∧
    (f.length = 10 → 0x30 ≤ (f.getD 6 0).toNat ∧ (f.getD 6 0).toNat ≤ 0x39) ∧
    s.host.txcfg = ⟨.data, .response, decide (f.length = 10), f.getD 5 0, f.getD 6 0 - 0x30⟩ ∧
    s.host.txaddr = ⟨f.getD 1 0, f.getD 2 0, f.getD 3 0, f.getD 4 0⟩ :=
  ⟨settled_of (by decide), by decide, by decide, by decide, by decide, by decide, by decide⟩

/-- The other branch of the descriptor clause: an identification request, 8 bytes, BP = 0. -/
theorem test_witness_TxRawRoundTrip_id :
    let f := idReqFrame ref 0x01 0x4C 0x45 0x44
    let s := fromU.setHost { fromU.host with
      txcfg := ⟨.id, .request, false, f.getD 5 0, f.getD 6 0 - 0x30⟩, idcfg := ⟨0x01, 0x4C, 0x45, 0x44⟩ }
    Settled s ∧ classify s.cfg.tc (f.getD 0 0) = some (.id, .request) ∧ f.length ∈ candLens .id ∧
    endsAt s.cfg.chk f f.length = true ∧
    (f.length = 10 → 0x30 ≤ (f.getD 6 0).toNat ∧ (f.getD 6 0).toNat ≤ 0x39) ∧
    s.host.txcfg = ⟨.id, .request, decide (f.length = 10), f.getD 5 0, f.getD 6 0 - 0x30⟩ ∧
    s.host.idcfg = ⟨f.getD 1 0, f.getD 2 0, f.getD 3 0, f.getD 4 0⟩ :=
  ⟨settled_of (by decide), by decide, by decide, by decide, by decide, by decide, by decide⟩

/-- For all eight frame constructors, with and without the battery byte (an 8, a 9 and a 10-byte frame), the holding register
free. -/
theorem test_witness_FrameDispatchedAtLastByte :
    Settled onA ∧ onA.host.ctrl.rxEn = true ∧ onA.frx.rxs = .idle ∧ onA.host.rxfValid = false ∧
    ∀ i ∈ [Instr.idReq 1 2 3 4, .idResp addrA, .reqReq addrA 0x30 none, .reqResp addrA 0x30 (some 0x39), .wdReq addrA 0x30 none,
        .wdResp addrA 0x30 none, .dataReq addrA 0x30 (some 0x30), .dataResp addrA 0x30 none],
      wellFormed onA.cfg i = true ∧ (frameParts onA.cfg i).isSome = true :=
  ⟨settled_of (by decide), by decide, by decide, by decide, by decide⟩

theorem test_witness_RequestFrameReachesHost :
    Settled rxU ∧ rxU.host.ctrl.rxEn = true ∧ rxU.frx.rxs = .idle ∧ rxU.host.rxfValid = false ∧
    frameParts rxU.cfg (.reqReq addrA 0x30 (some 0x35)) =
      some (.req, .request, [0x52, 0x00, 0x01, 0x00, 0x01, 0x30, 0x35, 0x00, 0xB9, 0x0D]) ∧
    wellFormed rxU.cfg (.reqReq addrA 0x30 (some 0x35)) = true :=
  ⟨settled_of (by decide), by decide, by decide, by decide, by decide, by decide⟩

theorem test_witness_OverrunKeepsHeldFrame : holding.host.rxfValid = true := by decide

/-- The received-byte spelling. -/
theorem test_witness_UnknownTypeCountsAndHunts :
    (Instr.rxByte 0x58 = .unknownType 0x58 ∨ Instr.rxByte 0x58 = .rxByte 0x58) ∧ Settled rxU ∧ rxU.host.ctrl.rxEn = true ∧ rxU.frx.rxs = .idle ∧ wellFormed rxU.cfg (.unknownType 0x58) = true :=
  ⟨.inr rfl, settled_of (by decide), by decide, by decide, by decide⟩

theorem test_witness_HuntEndsAtDelimiter :
    let s := rx [0x58] rxU
    Settled s ∧ s.host.ctrl.rxEn = true ∧ s.frx.rxs = .hunt ∧ (0x0D : Byte) ∉ ([0x0C, 0x0E] : List Byte) :=
  ⟨settled_of (by decide), by decide, by decide, by decide⟩

/-- The clauses at their boundaries: a type code in IDLE; byte 8 that is 0x0D; byte 9 that is none; a last delimiter, with a
Tick inside the frame; a delimiter at byte 9 behind a bad checksum. -/
theorem test_witness_ReceiverStoresFrameBytes :
    let s := rx [0x52, 0x00, 0x01, 0x00, 0x01, 0x30, 0x00] rxU
    let t := rx [0x0D] s
    let u := rx [0x30, 0x00, 0x84] (after .tick (rx [0x52, 0x00, 0x01, 0x00, 0x01] rxU))
    let w := rx [0x64, 0x00, 0x01, 0x00, 0x01, 0x31, 0x00, 0x96] rxU
    (Settled rxU ∧ rxU.frx.rxs = .idle ∧ classify rxU.cfg.tc 0x64 = some (.data, .response)) ∧
    (Settled s ∧ s.frx.rxs = .collect ∧ s.frx.rn + 1 = 8 ∧ s.frx.rn + 1 ∉ candLens s.frx.rk) ∧
    (Settled t ∧ t.frx.rxs = .collect ∧ t.frx.rn + 1 = 9 ∧ t.frx.rn + 1 ≠ maxLen t.frx.rk ∧ t.host.ctrl.rxEn = true) ∧
    (Settled u ∧ u.host.ctrl.rxEn = true ∧ u.frx.rxs = .collect ∧ u.frx.rn + 1 ∈ candLens u.frx.rk ∧
      validAt u.cfg.chk (u.frx.rb.setIfInBounds u.frx.rn 0x0D).toList (u.frx.rn + 1) = true ∧ u.host.rxfValid = false) ∧
    (Settled w ∧ w.host.ctrl.rxEn = true ∧ w.frx.rxs = .collect ∧ w.frx.rn + 1 = 9 ∧ w.frx.rk ≠ .id ∧
      validAt w.cfg.chk (w.frx.rb.setIfInBounds w.frx.rn 0x0D).toList 9 = false) :=
  ⟨⟨settled_of (by decide), by decide, by decide⟩, ⟨settled_of (by decide), by decide, by decide, by decide⟩,
    ⟨settled_of (by decide), by decide, by decide, by decide, by decide⟩,
    ⟨settled_of (by decide), by decide, by decide, by decide, by decide, by decide⟩,
    ⟨settled_of (by decide), by decide, by decide, by decide, by decide, by decide⟩⟩

theorem test_witness_DiscardAtMaximumLength :
    let s := rx [0x44, 0x00, 0x01, 0x00, 0x01, 0x31, 0x37, 0x00, 0xAF] rxU
    Settled s ∧ s.host.ctrl.rxEn = true ∧ s.frx.rxs = .collect ∧ s.frx.rn + 1 = maxLen s.frx.rk ∧
    validAt s.cfg.chk (s.frx.rb.setIfInBounds s.frx.rn 0x0D).toList (maxLen s.frx.rk) = false ∧
    (0x0C : Byte) ≠ 0x0D ∧ s.frx.rsd = false :=
  ⟨settled_of (by decide), by decide, by decide, by decide, by decide, by decide, by decide⟩

/-- Both clauses: the restart byte is a type code, and it is none. -/
theorem test_witness_FailedShortFrameRestarts :
    let s := rx [0x64, 0x00, 0x01, 0x00, 0x01, 0x31, 0x00, 0x96, 0x0D] rxU
    Settled s ∧ s.host.ctrl.rxEn = true ∧ s.frx.rxs = .collect ∧ s.frx.rn + 1 = maxLen s.frx.rk ∧ s.frx.rsd = true ∧
    (0x72 : Byte) ≠ 0x0D ∧ classify s.cfg.tc 0x72 = some (.req, .response) ∧
    (0x58 : Byte) ≠ 0x0D ∧ classify s.cfg.tc 0x58 = none :=
  ⟨settled_of (by decide), by decide, by decide, by decide, by decide, by decide, by decide, by decide, by decide⟩

/-- A 9-byte frame corrupted at its first and last eligible positions, and at its delimiter (1.4); a 10-byte frame whose
byte 8 becomes 0x0D, the named exception's own example; an 8-byte frame. -/
theorem test_witness_CorruptedFrameNotDelivered :
    let f := baseFrame ref .req .request addrA 0x30 none
    let g := baseFrame ref .data .request addrA 0x31 (some 0x37)
    let h := idRespFrame ref addrA
    Settled rxU ∧ P4 rxU.cfg.chk ∧ rxU.host.ctrl.rxEn = true ∧ rxU.frx.rxs = .idle ∧
    (wellFormed ref (.reqReq addrA 0x30 none) = true ∧ f.length = 9 ∧ (0x01 : Byte) ≠ f.getD 1 0 ∧ (0x85 : Byte) ≠ f.getD 7 0 ∧
      (0x0C : Byte) ≠ f.getD 8 0) ∧
    (wellFormed ref (.dataReq addrA 0x31 (some 0x37)) = true ∧ g.length = 10 ∧ (0x0D : Byte) ≠ g.getD 8 0 ∧
      endsAt ref.chk (g.set 8 0x0D) 9 = false) ∧
    (wellFormed ref (.idResp addrA) = true ∧ h.length = 8 ∧ (0x6C : Byte) ≠ h.getD 6 0) :=
  ⟨settled_of (by decide), refSum16_p4, by decide, by decide, by decide, by decide, by decide⟩

theorem test_witness_OwnResponseAcknowledges :
    let f := baseFrame ref .data .response addrA 0x30 none
    Settled flyData ∧ flyData.host.ctrl.rxEn = true ∧ flyData.frx.rxs = .idle ∧ flyData.host.ctrl.seqEn = true ∧
    frameParts flyData.cfg (.dataResp addrA 0x30 none) = some (.data, .response, f) ∧
    wellFormed flyData.cfg (.dataResp addrA 0x30 none) = true ∧
    [f.getD 1 0, f.getD 2 0, f.getD 3 0, f.getD 4 0] = flyData.host.addr.toList ∧
    (flyData.txn .data).active = true ∧ (flyData.txn .data).sent = true :=
  ⟨settled_of (by decide), by decide, by decide, by decide, by decide, by decide, by decide, by decide, by decide⟩

theorem test_witness_IdentificationResponse :
    Settled requested ∧ requested.host.ctrl.rxEn = true ∧ requested.frx.rxs = .idle ∧ requested.host.ctrl.seqEn = true ∧
    requested.seq.astate = .requested ∧ (requested.txn .id).active = true ∧ (requested.txn .id).sent = true ∧
    addrA ≠ requested.cfg.unassigned ∧ addrU = requested.cfg.unassigned :=
  ⟨settled_of (by decide), by decide, by decide, by decide, by decide, by decide, by decide, by decide, by decide⟩

/-- One state for each of the four disjuncts. -/
theorem test_witness_OtherResponsesHaveNoSequencerEffect :
    let f := baseFrame ref .data .response ⟨0x00, 0x01, 0x00, 0x02⟩ 0x30 none
    let d := due .wd (after .dataEvent onA)
    (Settled onA ∧ onA.host.ctrl.rxEn = true ∧ onA.frx.rxs = .idle ∧ (onA.txn .wd).active = false ∧
      wellFormed onA.cfg (.wdResp addrA 0x30 none) = true ∧ wellFormed onA.cfg (.wdReq addrA 0x30 none) = true) ∧
    (Settled d ∧ d.host.ctrl.rxEn = true ∧ d.frx.rxs = .idle ∧ (d.txn .wd).sent = false) ∧
    (Settled flyData ∧ [f.getD 1 0, f.getD 2 0, f.getD 3 0, f.getD 4 0] ≠ flyData.host.addr.toList) :=
  ⟨⟨settled_of (by decide), by decide, by decide, by decide, by decide, by decide⟩,
    ⟨settled_of (by decide), by decide, by decide, by decide⟩, ⟨settled_of (by decide), by decide⟩⟩

theorem test_witness_TriggerSendsRequest :
    onU.host.ctrl.seqEn = true ∧ onU.seq.astate = .unassigned ∧ onU.seq.infl = false := by decide

/-- Each clause on its own condition. -/
theorem test_witness_IgnoredEventsChangeNothing :
    Settled fromA ∧ fromA.host.ctrl.seqEn = false ∧ fromA.host.ctrl.rxEn = false ∧ fromA.frx.rxs = .idle ∧
    Settled requested ∧ requested.seq.astate ≠ .unassigned ∧ requested.seq.astate ≠ .assigned ∧
    Settled (ctl 0x1B fromA) ∧ (ctl 0x1B fromA).host.ctrl.enData = false ∧ FromWire (.wdReq addrA 0x30 none) :=
  ⟨settled_of (by decide), by decide, by decide, by decide, settled_of (by decide), by decide, by decide,
    settled_of (by decide), by decide, .inr (.inr ⟨ref, _, rfl⟩)⟩

theorem test_witness_DataEventSendsOrQueues :
    (onA.host.ctrl.seqEn = true ∧ onA.seq.astate = .assigned ∧ onA.host.ctrl.enData = true ∧ onA.seq.infl = false) ∧
    (flyData.seq.infl = true ∧ flyData.seq.scls = .data ∧ flyData.host.ctrl.enData = true) ∧
    (fly .wd onA).seq.infl = true ∧ (fly .wd onA).seq.scls ≠ .data ∧ (fly .wd onA).seq.astate = .assigned := by decide

theorem test_witness_ArbitrationPriority :
    let d := due .data (due .wd (due .req onA))
    let w := due .wd (due .req onA)
    let i := due .id (onU.setAState .requested)
    (d.host.ctrl.seqEn = true ∧ d.seq.infl = false ∧ d.seq.astate = .assigned ∧ (d.txn .data).pend = true) ∧
    ((w.txn .wd).pend = true ∧ (w.txn .data).pend = false ∧ w.seq.infl = false) ∧
    (((due .req onA).txn .req).pend = true ∧ ((due .req onA).txn .wd).pend = false) ∧
    (i.host.ctrl.seqEn = true ∧ i.seq.infl = false ∧ i.seq.astate = .requested ∧ (i.txn .id).pend = true) := by decide

/-- Due; one Tick short of it, with no transaction and with one in flight; and with the class's enable off. -/
theorem test_witness_PeriodExpiryStartsTransaction :
    let s := onA.setTxn .req { onA.txn .req with pcnt := 499 }
    let t := onA.setTxn .req { onA.txn .req with pcnt := 498 }
    let f := fly .req t
    (s.host.ctrl.seqEn = true ∧ s.seq.astate = .assigned ∧ s.host.ctrl.en .req = true ∧ (s.table.get .req).period ≠ 0 ∧
      (s.table.get .req).period.toNat ≤ (s.txn .req).pcnt.toNat + 1 ∧ s.seq.infl = false) ∧
    ((t.txn .req).pcnt.toNat + 1 < (t.table.get .req).period.toNat ∧ t.seq.astate = .assigned ∧
      (t.txn .req).active = false) ∧
    (f.host.ctrl.seqEn = true ∧ (f.txn .req).pcnt.toNat + 1 < (f.table.get .req).period.toNat ∧
      (f.txn .req).active = true ∧ (f.txn .req).sent = true ∧ (f.txn .req).elap.toNat < 131071) ∧
    ((ctl 0x03 onA).host.ctrl.seqEn = true ∧ (ctl 0x03 onA).host.ctrl.en .req = false) := by decide

theorem test_witness_IdentificationWaitExpires :
    let s := requested.setSeq { requested.seq with wcnt := 2999 }
    s.host.ctrl.seqEn = true ∧ s.seq.astate = .requested ∧ s.seq.infl = true ∧ s.seq.scls = .id ∧
    (s.table.get .id).wait.toNat = s.seq.wcnt.toNat + 1 := by decide

/-- Program P2 from its first send, the 60000th Tick with EN_WD = 1: W = 2000 and the period 60000, so both resends (n = 4000)
and every n below 60000 are covered. The state is the step's own, and the period's counter is running. -/
theorem test_witness_UnboundedRetrySchedule :
    let p := ctl 0x13 fromA
    let s := after .tick (p.setTxn .wd { p.txn .wd with pcnt := 59999 })
    s.host.ctrl.seqEn = true ∧ s.seq.astate = .assigned ∧ s.seq.infl = true ∧ s.seq.scls = .wd ∧ s.seq.wcnt = 0 ∧
    (s.txn .wd).active = true ∧ (s.txn .wd).sent = true ∧ (s.txn .wd).pend = false ∧
    (∀ k ∈ [MsgClass.id, .req, .data], (s.txn k).active = false ∧ (s.txn k).pend = false) ∧
    s.host.ctrl.en .req = false ∧ s.host.ctrl.en .wd = true ∧
    (s.txn .wd).pcnt.toNat + 59999 < (s.table.get .wd).period.toNat ∧
    (s.table.get .wd).retry.ren = true ∧ (s.table.get .wd).retry.rinf = true := by decide

/-- DATA with its reset table: W = 2000, one retry, the last Tick before giving up is 3999. -/
theorem test_witness_BoundedRetryGivesUp :
    (flyData.host.ctrl.seqEn = true ∧ flyData.seq.astate = .assigned ∧ flyData.seq.infl = true ∧ flyData.seq.scls = .data ∧
      flyData.seq.wcnt = 0 ∧ (flyData.txn .data).active = true ∧ (flyData.txn .data).sent = true ∧
      (flyData.txn .data).pend = false ∧ (flyData.txn .data).elap = 0) ∧
    (∀ k ∈ [MsgClass.id, .req, .wd], (flyData.txn k).active = false ∧ (flyData.txn k).pend = false) ∧
    (∀ k ∈ [MsgClass.req, .wd], flyData.host.ctrl.en k = false ∨ (flyData.table.get k).period = 0) ∧
    ((flyData.table.get .data).retry.ren = true ∧ (flyData.table.get .data).retry.rinf = false) ∧
    (flyData.table.get .data).retry.rwin.toNat / (flyData.table.get .data).wait.toNat = 1 ∧ 3999 < (1 + 1) * 2000 := by
  decide

/-- The REQ poll with its reset table, from its send at the 500th Tick: W = 100 and no retry, so the poll gives up at n = 100,
inside its period of 500. -/
theorem test_witness_BoundedRetryGivesUp_poll :
    let p := ctl 0x0B fromA
    let s := after .tick (p.setTxn .req { p.txn .req with pcnt := 499 })
    s.host.ctrl.seqEn = true ∧ s.seq.astate = .assigned ∧ s.seq.infl = true ∧ s.seq.scls = .req ∧ s.seq.wcnt = 0 ∧
    (s.txn .req).active = true ∧ (s.txn .req).sent = true ∧ (s.txn .req).pend = false ∧ (s.txn .req).elap = 0 ∧
    (∀ k ∈ [MsgClass.id, .wd, .data], (s.txn k).active = false ∧ (s.txn k).pend = false) ∧
    s.host.ctrl.en .wd = false ∧ (s.txn .req).pcnt.toNat + 499 < (s.table.get .req).period.toNat ∧
    (s.table.get .req).retry.ren = false ∧ (0 + 1) * (s.table.get .req).wait.toNat ≤ 100 := by decide

/-- The sequencer's invariants hold in the three states of R110's table. -/
theorem test_witness_SequencerInv_unassigned : SequencerInv onU ∧ onU.seq.astate = .unassigned := by
  refine ⟨⟨?_, ?_, by decide, ?_, by decide, by decide, by decide, fun h => absurd h (by decide), ?_, by decide, ?_, ?_⟩,
    by decide⟩ <;>
    intro c <;> cases c <;> first | decide | (intro h; exact absurd h (by decide))

theorem test_witness_SequencerInv_requested : SequencerInv requested ∧ requested.seq.astate = .requested := by
  refine ⟨⟨?_, ?_, by decide, ?_, by decide, by decide, by decide, fun h => absurd h (by decide), ?_, by decide, ?_, ?_⟩,
    by decide⟩ <;>
    intro c <;> cases c <;>
    first | decide | (intro h; exact absurd h (by decide)) | (intro _; exact ⟨0x01, 0x4C, 0x45, 0x44, by decide⟩)

theorem test_witness_SequencerInv_assigned : SequencerInv flyData ∧ flyData.seq.astate = .assigned := by
  refine ⟨⟨?_, ?_, by decide, ?_, by decide, by decide, by decide, fun h => absurd h (by decide), ?_, by decide, ?_, ?_⟩,
    by decide⟩ <;>
    intro c <;> cases c <;>
    first | decide | (intro h; exact absurd h (by decide)) | (intro _; exact ⟨0x01, none, by decide⟩)

theorem test_witness_AStateTransitions :
    (SequencerInv onU ∧ exec .trigger onU = .next requested ∧ onU.seq.astate = .unassigned) ∧
    (SequencerInv requested ∧ exec (.idResp addrA) requested = .next (after (.idResp addrA) requested) ∧
      requested.seq.astate = .requested) ∧
    (SequencerInv flyData ∧ exec .unassign flyData = .next (after .unassign flyData) ∧ flyData.seq.astate = .assigned) :=
  ⟨⟨test_witness_SequencerInv_unassigned.1, rfl, by decide⟩, ⟨test_witness_SequencerInv_requested.1, rfl, by decide⟩,
    ⟨test_witness_SequencerInv_assigned.1, rfl, by decide⟩⟩

theorem test_witness_AddressChangePersisted :
    exec .unassign flyData = .next (after .unassign flyData) ∧ (after .unassign flyData).host.addr ≠ flyData.host.addr ∧
    ∀ nv, Instr.unassign ≠ .reset nv := ⟨rfl, by decide, fun _ h => by cases h⟩

theorem test_witness_AtMostOneSequencerFrame :
    exec .txRaw flyData = .next (after .txRaw flyData) ∧ ∀ cfg, frameParts cfg .txRaw = none := ⟨rfl, fun _ => rfl⟩

theorem test_witness_SequencerSendsOnlyRequests :
    SequencerInv onU ∧ exec .trigger onU = .next requested ∧ ¬ RunsCommand .txRaw .trigger ∧
    ¬ RunsCommand .txLogical .trigger :=
  ⟨test_witness_SequencerInv_unassigned.1, rfl, (by rintro (h | ⟨_, h, -⟩) <;> cases h),
    (by rintro (h | ⟨_, h, -⟩) <;> cases h)⟩

/-- A step of the machine, with an input lined up. -/
theorem test_witness_StepKeepsSequencerInv :
    let s := flyData.setInputs [.tick]
    SequencerInv s ∧ ∃ t, step s = .next t := by
  obtain ⟨⟨h1, h2, h3, h4, h5, h6, h7, h8, h9, h10, h11, h12⟩, -⟩ := test_witness_SequencerInv_assigned
  exact ⟨⟨h1, h2, h3, h4, h5, h6, h7, h8, h9, h10, h11, h12⟩, _, rfl⟩

/-- A receiver inside a frame, with its next byte lined up. -/
theorem test_witness_StepKeepsReceiverInv :
    let s := (rx [0x52, 0x00] rxU).setInputs [.rxByte 0x01]
    ReceiverInv s ∧ ∃ t, step s = .next t :=
  ⟨⟨by decide, by decide, by decide, by decide, by decide, by decide, by decide⟩, _, rfl⟩

theorem test_witness_EveryStepSettles : exec .nop flyData = .next (after .nop flyData) := rfl

theorem test_witness_ConfigurationNeverChanges : exec .tick flyData = .next (after .tick flyData) := rfl

/-- A register of each shape, with the whole of its mask. -/
theorem test_witness_RegWriteReadsBack :
    Settled onA ∧ writeMask .txcfg = some 0x00FFFF0F ∧ writeMask (.retry .data) = some 0x3FFFF ∧
    writeMask (.wait .id) = some 0xFFFF ∧ writeMask .inten = some 0x3F ∧ Reg.txcfg ≠ .ctrl :=
  ⟨settled_of (by decide), by decide, by decide, by decide, by decide, by decide⟩

theorem test_witness_ReadOnlyWritesIgnored :
    Settled onA ∧ writeIgnored .addr = true ∧ writeIgnored (.period .data) = true ∧ writeIgnored (.reserved 0x3C) = true :=
  ⟨settled_of (by decide), by decide, by decide, by decide⟩

theorem test_witness_IntstatWriteOneClears : Settled (after (.reservedCmdLow 0x06) onA) := settled_of (by decide)

theorem test_witness_CtrlWriteRaisingEnables :
    Settled onU ∧ SequencerInv onU ∧ (0x3F : Word).getLsbD 0 = true ∧ (0x3F : Word).getLsbD 1 = true ∧
    (∀ c ∈ classes, onU.host.ctrl.en c = true → (ctrlOf 0x3F).en c = true) :=
  ⟨settled_of (by decide), test_witness_SequencerInv_unassigned.1, by decide, by decide, by decide⟩

/-- In REQUESTED and in ASSIGNED. -/
theorem test_witness_SequencerDisableCancels :
    requested.host.ctrl.seqEn = true ∧ flyData.host.ctrl.seqEn = true ∧ (0x02 : Word).getLsbD 0 = false := by decide

theorem test_witness_ClassDisableEndsTransaction :
    MsgClass.data ≠ .id ∧ flyData.host.ctrl.en .data = true ∧ (ctrlOf 0x1B).en .data = false ∧ (0x1B : Word).getLsbD 0 = true ∧
    (ctrlOf 0x1B).en .wd = true := by decide

theorem test_witness_ReceiverDisableDiscards :
    let s := rx [0x52, 0x00] onU
    s.host.ctrl.rxEn = true ∧ s.frx.rn = 2 ∧ (0x01 : Word).getLsbD 1 = false ∧ (0x01 : Word).getLsbD 0 = true ∧ Settled s ∧
    (∀ c ∈ classes, s.host.ctrl.en c = true → (ctrlOf 0x01).en c = true) ∧ SequencerInv onU ∧ onU.host.ctrl.rxEn = true ∧
    Settled onU :=
  ⟨by decide, by decide, by decide, by decide, settled_of (by decide), by decide, test_witness_SequencerInv_unassigned.1,
    by decide, settled_of (by decide)⟩

/-- The controller-side use: SEQ_EN is 0 and stays 0 (CTRL 0x02 written 0x00, 2.5). -/
theorem test_witness_ReceiverDisableDiscards_controller :
    rxU.host.ctrl.rxEn = true ∧ rxU.host.ctrl.seqEn = false ∧ (0x00 : Word).getLsbD 1 = false ∧ (0x00 : Word).getLsbD 0 = false ∧
    (∀ c ∈ classes, rxU.host.ctrl.en c = true → (ctrlOf 0x00).en c = true) ∧ SequencerInv rxU ∧ Settled rxU := by
  refine ⟨by decide, by decide, by decide, by decide, by decide, ⟨?_, ?_, by decide, ?_, by decide, by decide, by decide, ?_, ?_,
    by decide, ?_, ?_⟩, settled_of (by decide)⟩
  · intro c; cases c <;> decide
  · intro c; cases c <;> decide
  · intro c; cases c <;> decide
  · exact fun _ => ⟨by decide, fun c => by cases c <;> decide⟩
  · intro c; cases c <;> decide
  · intro c; cases c <;> (intro h; exact absurd h (by decide))
  · intro c; cases c <;> decide

theorem test_witness_ReservedOpcodesFlagged :
    Settled onA ∧ (Instr.reservedCmdLow 0x06 = .reservedCmdLow 0x06 ∨ Instr.reservedCmdLow 0x06 = .reservedCmdHigh 0x06) :=
  ⟨settled_of (by decide), .inl rfl⟩

end Sys2Proof.Tests
end

/-! SUPPORT. The scope rules (spec/00_scope.md): what a step runs (R9), and that no operation changes the configuration the
block was built with or the inputs the environment has lined up for it (R5). Each operation's lemma gives both fields, so
that `simp` rewrites either one.
-/
namespace Sys2Proof.Machine
open Sys2Proof

/-! ### The step (R9) -/

/-- The fetch of an input that decodes to an instruction: the input is taken, what the decoder leaves over goes back. -/
theorem fetch_of_decode_instr {s : State} {x : Input} {rest more : List Input} {i : Instr} (hx : s.inputs = x :: rest)
    (hd : decode s.cfg x = .instr i more) : fetch s = .run i (s.setInputs (more ++ rest)) := by
  simp only [fetch, hx, hd]
  rfl

/-- A step whose fetch finds an instruction runs it. -/
theorem step_of_fetch_run {s t : State} {i : Instr} (h : fetch s = .run i t) : step s = exec i t := by
  simp only [step, h]

/-- Settles O4: the fetch hands the decoded instruction and the advanced inputs to `exec`. -/
theorem stepRunsDecodedInstruction : Obligations.StepRunsDecodedInstruction :=
  fun _ _ _ _ _ hx hd => step_of_fetch_run (fetch_of_decode_instr hx hd)

/-! ### The configuration and the inputs: transactions -/

@[simp] theorem clearPcnt_cfg_inputs (c : MsgClass) (s : State) :
    (clearPcnt c s).cfg = s.cfg ∧ (clearPcnt c s).inputs = s.inputs := ⟨rfl, rfl⟩

@[simp] theorem newTxn_cfg_inputs (c : MsgClass) (s : State) :
    (newTxn c s).cfg = s.cfg ∧ (newTxn c s).inputs = s.inputs := by simp [newTxn_eq]

@[simp] theorem endTxn_cfg_inputs (c : MsgClass) (s : State) :
    (endTxn c s).cfg = s.cfg ∧ (endTxn c s).inputs = s.inputs := by simp [endTxn_eq]

@[simp] theorem cancelAll_cfg_inputs (s : State) :
    (cancelAll s).cfg = s.cfg ∧ (cancelAll s).inputs = s.inputs := by simp [cancelAll_eq]

/-! ### The configuration and the inputs: the sequencer -/

@[simp] theorem acceptIdentification_cfg_inputs (a : Addr) (s : State) :
    (acceptIdentification a s).cfg = s.cfg ∧ (acceptIdentification a s).inputs = s.inputs := by
  unfold acceptIdentification
  split <;> simp

@[simp] theorem matchResponse_cfg_inputs (k : MsgClass) (d : Direction) (fb : List Byte) (s : State) :
    (matchResponse k d fb s).cfg = s.cfg ∧ (matchResponse k d fb s).inputs = s.inputs := by
  rcases matchResponse_cases k d fb s with h | ⟨-, -, -, -, ⟨-, -, -, h⟩ | ⟨-, -, h⟩⟩ <;> simp [h]

@[simp] theorem cadence_cfg_inputs (c : MsgClass) (s : State) :
    (cadence c s).cfg = s.cfg ∧ (cadence c s).inputs = s.inputs := by
  rcases cadence_cases c s with ⟨h, -⟩ | ⟨-, -, -, ⟨-, h⟩ | ⟨-, h⟩⟩ <;> simp [h]

@[simp] theorem cadenceStep_cfg_inputs (s : State) :
    (cadenceStep s).cfg = s.cfg ∧ (cadenceStep s).inputs = s.inputs := by simp [cadenceStep]

@[simp] theorem elapsedStep_cfg_inputs (s : State) :
    (elapsedStep s).cfg = s.cfg ∧ (elapsedStep s).inputs = s.inputs := by simp [elapsedStep_eq]

@[simp] theorem expire_cfg_inputs (c : MsgClass) (s : State) :
    (expire c s).cfg = s.cfg ∧ (expire c s).inputs = s.inputs := by
  rcases expire_cases c s with ⟨-, h⟩ | ⟨-, -, h⟩ | ⟨-, -, h⟩ <;> simp [h]

@[simp] theorem waitStep_cfg_inputs (s : State) :
    (waitStep s).cfg = s.cfg ∧ (waitStep s).inputs = s.inputs := by
  unfold waitStep
  split
  · dsimp only
    split <;> simp
  · simp

@[simp] theorem tickStep_cfg_inputs (s : State) :
    (tickStep s).cfg = s.cfg ∧ (tickStep s).inputs = s.inputs := by
  unfold tickStep
  split <;> simp

@[simp] theorem triggerStep_cfg_inputs (s : State) :
    (triggerStep s).cfg = s.cfg ∧ (triggerStep s).inputs = s.inputs := by
  unfold triggerStep
  split <;> simp

@[simp] theorem dataEventStep_cfg_inputs (s : State) :
    (dataEventStep s).cfg = s.cfg ∧ (dataEventStep s).inputs = s.inputs := by
  unfold dataEventStep
  split <;> simp

@[simp] theorem unassignStep_cfg_inputs (s : State) :
    (unassignStep s).cfg = s.cfg ∧ (unassignStep s).inputs = s.inputs := by simp [unassignStep]

/-! ### The configuration and the inputs: the receiver -/

@[simp] theorem dispatchFrame_cfg_inputs (fb : List Byte) (k : MsgClass) (d : Direction) (s : State) :
    (dispatchFrame fb k d s).cfg = s.cfg ∧ (dispatchFrame fb k d s).inputs = s.inputs := by
  rcases dispatchFrame_cases fb k d s with ⟨-, h⟩ | ⟨-, h⟩ <;> simp [h]

@[simp] theorem deliver_cfg_inputs (n : Nat) (s : State) :
    (deliver n s).cfg = s.cfg ∧ (deliver n s).inputs = s.inputs := dispatchFrame_cfg_inputs _ _ _ s

@[simp] theorem startFrame_cfg_inputs (b : Byte) (s : State) :
    (startFrame b s).cfg = s.cfg ∧ (startFrame b s).inputs = s.inputs := by
  rcases startFrame_cases b s with ⟨-, h⟩ | ⟨-, -, h⟩ | ⟨k, d, -, -, h⟩ <;> simp [h]

@[simp] theorem collectByte_cfg_inputs (b : Byte) (s : State) :
    (collectByte b s).cfg = s.cfg ∧ (collectByte b s).inputs = s.inputs := by
  rcases collectByte_cases b s with ⟨-, -, h⟩ | ⟨-, -, h⟩ | ⟨-, -, -, h⟩ | ⟨-, -, -, h⟩ | ⟨-, h⟩ <;> simp [h]

@[simp] theorem huntByte_cfg_inputs (b : Byte) (s : State) :
    (huntByte b s).cfg = s.cfg ∧ (huntByte b s).inputs = s.inputs := by
  unfold huntByte
  split <;> simp

@[simp] theorem receiveByte_cfg_inputs (b : Byte) (s : State) :
    (receiveByte b s).cfg = s.cfg ∧ (receiveByte b s).inputs = s.inputs := by
  unfold receiveByte
  split
  · split <;> simp
  · simp

@[simp] theorem rxByteStep_cfg_inputs (b : Byte) (s : State) :
    (rxByteStep b s).cfg = s.cfg ∧ (rxByteStep b s).inputs = s.inputs := by simp [rxByteStep]

@[simp] theorem receiveBytes_cfg_inputs (bs : List Byte) (s : State) :
    (receiveBytes bs s).cfg = s.cfg ∧ (receiveBytes bs s).inputs = s.inputs := by
  induction bs generalizing s with
  | nil => exact ⟨rfl, rfl⟩
  | cons b bs ih =>
    obtain ⟨hc, hi⟩ := ih (rxByteStep b s)
    obtain ⟨hc', hi'⟩ := rxByteStep_cfg_inputs b s
    exact ⟨hc.trans hc', hi.trans hi'⟩

@[simp] theorem receiverDisable_cfg_inputs (s : State) :
    (receiverDisable s).cfg = s.cfg ∧ (receiverDisable s).inputs = s.inputs := ⟨rfl, rfl⟩

/-! ### The configuration and the inputs: the host interface -/

@[simp] theorem regReadStep_cfg_inputs (r : Reg) (s : State) :
    (regReadStep r s).cfg = s.cfg ∧ (regReadStep r s).inputs = s.inputs := by simp [regReadStep]

@[simp] theorem txRawStep_cfg_inputs (s : State) :
    (txRawStep s).cfg = s.cfg ∧ (txRawStep s).inputs = s.inputs := by simp [txRawStep]

@[simp] theorem txLogicalStep_cfg_inputs (s : State) :
    (txLogicalStep s).cfg = s.cfg ∧ (txLogicalStep s).inputs = s.inputs := by simp [txLogicalStep]

@[simp] theorem nopStep_cfg_inputs (s : State) :
    (nopStep s).cfg = s.cfg ∧ (nopStep s).inputs = s.inputs := by simp [nopStep]

@[simp] theorem rxPopStep_cfg_inputs (s : State) :
    (rxPopStep s).cfg = s.cfg ∧ (rxPopStep s).inputs = s.inputs := by simp [rxPopStep]

@[simp] theorem clrErrStep_cfg_inputs (s : State) :
    (clrErrStep s).cfg = s.cfg ∧ (clrErrStep s).inputs = s.inputs := by simp [clrErrStep]

@[simp] theorem reservedStep_cfg_inputs (s : State) :
    (reservedStep s).cfg = s.cfg ∧ (reservedStep s).inputs = s.inputs := by simp [reservedStep]

@[simp] theorem cmdWrite_cfg_inputs (v : Word) (s : State) :
    (cmdWrite v s).cfg = s.cfg ∧ (cmdWrite v s).inputs = s.inputs := by
  unfold cmdWrite
  split <;> simp

@[simp] theorem seqDisable_cfg_inputs (s : State) :
    (seqDisable s).cfg = s.cfg ∧ (seqDisable s).inputs = s.inputs := by
  unfold seqDisable
  dsimp only
  split <;> simp

@[simp] theorem classTransition_cfg_inputs (old new : Ctrl) (s : State) (c : MsgClass) :
    (classTransition old new s c).cfg = s.cfg ∧ (classTransition old new s c).inputs = s.inputs := by
  unfold classTransition
  split <;> simp

/-- CTRL's three transitions, SEQ_EN, RX_EN and the class enables, one after the other (R222). -/
@[simp] theorem ctrlWrite_cfg_inputs (v : Word) (s : State) :
    (ctrlWrite v s).cfg = s.cfg ∧ (ctrlWrite v s).inputs = s.inputs := by
  simp only [ctrlWrite, List.foldl_cons, List.foldl_nil, classTransition_cfg_inputs]
  split <;> split <;> simp

@[simp] theorem State.setRow_cfg_inputs (s : State) (c : MsgClass) (r : TableRow) :
    (s.setRow c r).cfg = s.cfg ∧ (s.setRow c r).inputs = s.inputs := ⟨rfl, rfl⟩

@[simp] theorem periodWrite_cfg_inputs (c : MsgClass) (v : Word) (s : State) :
    (periodWrite c v s).cfg = s.cfg ∧ (periodWrite c v s).inputs = s.inputs := by
  unfold periodWrite
  split <;> simp

@[simp] theorem waitWrite_cfg_inputs (c : MsgClass) (v : Word) (s : State) :
    (waitWrite c v s).cfg = s.cfg ∧ (waitWrite c v s).inputs = s.inputs := ⟨rfl, rfl⟩

@[simp] theorem retryWrite_cfg_inputs (c : MsgClass) (v : Word) (s : State) :
    (retryWrite c v s).cfg = s.cfg ∧ (retryWrite c v s).inputs = s.inputs := by
  unfold retryWrite
  split <;> simp

@[simp] theorem writeReg_cfg_inputs (r : Reg) (v : Word) (s : State) :
    (writeReg r v s).cfg = s.cfg ∧ (writeReg r v s).inputs = s.inputs := by
  unfold writeReg
  split <;> simp

@[simp] theorem regWriteStep_cfg_inputs (r : Reg) (v : Word) (s : State) :
    (regWriteStep r v s).cfg = s.cfg ∧ (regWriteStep r v s).inputs = s.inputs := by
  unfold regWriteStep
  split <;> simp

/-! ### The configuration and the inputs: Reset, and every instruction -/

/-- Reset starts the block again under the configuration it was built with, and the lined-up inputs stay (R280). -/
@[simp] theorem resetStep_cfg_inputs (nv : Addr) (s : State) :
    (resetStep nv s).cfg = s.cfg ∧ (resetStep nv s).inputs = s.inputs := by simp [resetStep, State.resetWith]

/-- Settles O43: instruction by instruction, each operation's own lemma. -/
theorem configurationNeverChanges : Obligations.ConfigurationNeverChanges := by
  intro i s t h
  cases i with
  | idReq | idResp | reqReq | reqResp | wdReq | wdResp | dataReq | dataResp | unknownType =>
    cases h
    exact receiveBytes_cfg_inputs _ s
  | nop => cases h; exact nopStep_cfg_inputs s
  | trigger => cases h; exact triggerStep_cfg_inputs s
  | dataEvent => cases h; exact dataEventStep_cfg_inputs s
  | rxPop => cases h; exact rxPopStep_cfg_inputs s
  | unassign => cases h; exact unassignStep_cfg_inputs s
  | clrErr => cases h; exact clrErrStep_cfg_inputs s
  | txRaw => cases h; exact txRawStep_cfg_inputs s
  | txLogical => cases h; exact txLogicalStep_cfg_inputs s
  | reservedCmdLow | reservedCmdHigh => cases h; exact reservedStep_cfg_inputs s
  | rxByte b => cases h; exact rxByteStep_cfg_inputs b s
  | tick => cases h; exact tickStep_cfg_inputs s
  | reset nv => cases h; exact resetStep_cfg_inputs nv s
  | regRead r => cases h; exact regReadStep_cfg_inputs r s
  | regWrite r v => cases h; exact regWriteStep_cfg_inputs r v s

end Sys2Proof.Machine

/-! SUPPORT. What a step does, said once for every invariant: each instruction is the work of its event and the end of the
step, a wire frame is that for each of its bytes (spec/44_host_interface.md R233), so what the works and the end of a step
keep, every step keeps.
-/
namespace Sys2Proof.Machine
open Sys2Proof

/-! ### Every event's work, then the end of the step -/

/-- The work of a Tick with the sequencer on (R115). -/
def tickWork (s : State) : State := waitStep (elapsedStep (cadenceStep s))

/-- The work of UNASSIGN (R123). -/
def unassignWork (s : State) : State :=
  emitNv s.cfg.unassigned
    (((cancelAll s).setHost { s.host with addr := s.cfg.unassigned }).setAState .unassigned)

/-- The work of a Reset (R280). -/
def resetWork (nv : Addr) (s : State) : State :=
  { State.resetWith s.cfg nv with out := { s.out with irq := false }, inputs := s.inputs }

theorem tickStep_eq (s : State) : tickStep s = endOfStep (if s.host.ctrl.seqEn then tickWork s else s) := rfl

theorem unassignStep_eq (s : State) : unassignStep s = endOfStep (unassignWork s) := by
  simp only [unassignStep, unassignWork, cancelAll_eq]
  rfl

theorem resetStep_eq (nv : Addr) (s : State) : resetStep nv s = endOfStep (resetWork nv s) := rfl

/-- `P` survives the end of a step and the work of every event (R9). -/
structure KeptByWork (P : State → Prop) : Prop where
  inputs : ∀ {s : State} (xs : List Input), P s → P (s.setInputs xs)
  ended : ∀ {s : State}, P s → P (endOfStep s)
  byte : ∀ {s : State} (b : Byte), P s → P (receiveByte b s)
  tick : ∀ {s : State}, s.host.ctrl.seqEn = true → P s → P (tickWork s)
  trigger : ∀ {s : State}, s.host.ctrl.seqEn = true → s.seq.astate = .unassigned → P s →
    P (newTxn .id (s.setAState .requested))
  dataEvent : ∀ {s : State}, s.host.ctrl.seqEn = true → s.seq.astate = .assigned → s.host.ctrl.enData = true → P s →
    P (newTxn .data s)
  unassign : ∀ {s : State}, P s → P (unassignWork s)
  reset : ∀ {s : State} (nv : Addr), P s → P (resetWork nv s)
  read : ∀ {s : State} (w : Word), P s → P (emitRead w s)
  transmit : ∀ {s : State} (f : List Byte), P s → P (emitFrame f s)
  rxPop : ∀ {s : State}, P s → P (s.setHost { s.host with rxfValid := false })
  clrErr : ∀ {s : State}, P s → P (s.setHost { s.host with cnt := ⟨0, 0, 0, 0⟩, rxOvr := false, cmdErr := false })
  reserved : ∀ {s : State}, P s → P (countEvent .cmdErr s)
  write : ∀ {s : State} (r : Reg) (v : Word), P s → P (writeReg r v s)

namespace KeptByWork
variable {P : State → Prop}

theorem receiveBytes (h : KeptByWork P) (bs : List Byte) {s : State} (hs : P s) : P (receiveBytes bs s) := by
  induction bs generalizing s with
  | nil => exact hs
  | cons b bs ih => exact ih (h.ended (h.byte b hs))

theorem tickStep (h : KeptByWork P) {s : State} (hs : P s) : P (tickStep s) := by
  rw [tickStep_eq]
  split
  · next he => exact h.ended (h.tick he hs)
  · exact h.ended hs

theorem triggerStep (h : KeptByWork P) {s : State} (hs : P s) : P (triggerStep s) := by
  unfold Machine.triggerStep
  split
  · next hg => exact h.ended (h.trigger hg.1 hg.2 hs)
  · exact h.ended hs

theorem dataEventStep (h : KeptByWork P) {s : State} (hs : P s) : P (dataEventStep s) := by
  unfold Machine.dataEventStep
  split
  · next hg => exact h.ended (h.dataEvent hg.1 hg.2.1 hg.2.2 hs)
  · exact h.ended hs

/-- A command, in either of its spellings (R223). -/
theorem cmdWrite (h : KeptByWork P) (v : Word) {s : State} (hs : P s) : P (cmdWrite v s) := by
  unfold Machine.cmdWrite
  split
  · exact h.ended hs
  · exact h.triggerStep hs
  · exact h.dataEventStep hs
  · exact h.ended (h.rxPop hs)
  · exact unassignStep_eq s ▸ h.ended (h.unassign hs)
  · exact h.ended (h.clrErr hs)
  · exact h.ended (h.transmit _ hs)
  · exact h.ended (h.transmit _ hs)
  · exact h.ended (h.reserved hs)

/-- Every instruction keeps what the works of the events keep. -/
theorem exec (h : KeptByWork P) {i : Instr} {s t : State} (hs : P s) (he : exec i s = .next t) : P t := by
  cases i with
  | idReq | idResp | reqReq | reqResp | wdReq | wdResp | dataReq | dataResp | unknownType =>
    cases he
    exact h.receiveBytes _ hs
  | nop => cases he; exact h.ended hs
  | trigger => cases he; exact h.triggerStep hs
  | dataEvent => cases he; exact h.dataEventStep hs
  | rxPop => cases he; exact h.ended (h.rxPop hs)
  | unassign => cases he; exact unassignStep_eq s ▸ h.ended (h.unassign hs)
  | clrErr => cases he; exact h.ended (h.clrErr hs)
  | txRaw | txLogical => cases he; exact h.ended (h.transmit _ hs)
  | reservedCmdLow | reservedCmdHigh => cases he; exact h.ended (h.reserved hs)
  | rxByte b => cases he; exact h.ended (h.byte b hs)
  | tick => cases he; exact h.tickStep hs
  | reset nv => cases he; exact resetStep_eq nv s ▸ h.ended (h.reset nv hs)
  | regRead r => cases he; exact h.ended (h.read _ hs)
  | regWrite r v =>
    cases he
    unfold regWriteStep
    split
    · exact h.cmdWrite v hs
    · exact h.ended (h.write r v hs)

end KeptByWork

/-- What follows a rejected input: a refusal, the next byte of the wire, or nothing (R61, R194). -/
theorem fetchRejected_cases (r : Reject) (x : Input) (s : State) :
    (∃ why, fetchRejected r x s = .refuse why) ∨ (∃ b xs, fetchRejected r x s = .run (.rxByte b) (s.setInputs xs)) ∨
    fetchRejected r x s = .idle s := by
  cases r with
  | accessWidth w | accessMisaligned w | accessOutsideWindow w => exact .inl ⟨_, rfl⟩
  | wireEmpty | wireFiller | wireNoFrame =>
    right
    unfold fetchRejected
    dsimp only
    split
    · exact .inl ⟨_, _, rfl⟩
    · exact .inr rfl

/-- What the fetch can find: nothing to do, an instruction, or a refused input; in the state only the inputs move on. -/
theorem fetch_cases (s : State) :
    (∃ xs, fetch s = .idle (s.setInputs xs)) ∨ (∃ i xs, fetch s = .run i (s.setInputs xs)) ∨
    ∃ why, fetch s = .refuse why := by
  rcases hx : s.inputs with _ | ⟨x, rest⟩
  · exact .inl ⟨s.inputs, by simp only [fetch, hx]; rw [← hx]; rfl⟩
  · rcases hd : decode s.cfg x with ⟨i, more⟩ | r
    · exact .inr (.inl ⟨i, more ++ rest, fetch_of_decode_instr hx hd⟩)
    · have hf : fetch s = fetchRejected r x (s.setInputs rest) := by simp only [fetch, hx, hd]
      rcases fetchRejected_cases r x (s.setInputs rest) with ⟨why, h⟩ | ⟨b, xs, h⟩ | h
      · exact .inr (.inr ⟨why, hf.trans h⟩)
      · exact .inr (.inl ⟨.rxByte b, xs, hf.trans h⟩)
      · exact .inl ⟨rest, hf.trans h⟩

/-- What a step can do: move the inputs on, or run an instruction with the inputs moved on. -/
theorem step_cases {s t : State} (h : step s = .next t) :
    (∃ xs, t = s.setInputs xs) ∨ ∃ i xs, exec i (s.setInputs xs) = .next t := by
  unfold step at h
  rcases fetch_cases s with ⟨xs, hf⟩ | ⟨i, xs, hf⟩ | ⟨why, hf⟩
  · rw [hf] at h
    cases h
    exact .inl ⟨xs, rfl⟩
  · rw [hf] at h
    exact .inr ⟨i, xs, h⟩
  · rw [hf] at h
    cases h

theorem KeptByWork.step {P : State → Prop} (h : KeptByWork P) {s t : State} (hs : P s) (he : step s = .next t) : P t := by
  rcases step_cases he with ⟨xs, rfl⟩ | ⟨i, xs, hi⟩
  · exact h.inputs xs hs
  · exact h.exec (h.inputs xs hs) hi

end Sys2Proof.Machine

/-! SUPPORT. The sequencer's invariants class by class (spec/10_state.md R46, R47), and that every step keeps them. -/
namespace Sys2Proof.Machine
open Sys2Proof

/-! ### The invariants of one class -/

/-- CTRL lets class `c` run: the sequencer is on and so is the class (R24, R124, R125). -/
def Runs (s : State) (c : MsgClass) : Prop := s.host.ctrl.seqEn = true ∧ s.host.ctrl.en c = true

/-- Class `c` holds the slot (R47). -/
def HasSlot (s : State) (c : MsgClass) : Prop := s.seq.infl = true ∧ s.seq.scls = c

/-- What `SequencerInv` says of one class (R46, R47, R112 to R114, R118, R121, R124, R125). -/
structure ClassInv (s : State) (c : MsgClass) : Prop where
  pend_active : (s.txn c).pend = true → (s.txn c).active = true
  sent_active : (s.txn c).sent = true → (s.txn c).active = true
  allowed : (s.txn c).active = true → allowed s.seq.astate c = true
  runs : (s.txn c).active = true → Runs s c
  snapshot : (s.txn c).active = true → IsSeqFrame s c (s.txn c).tf
  due_or_sent : (s.txn c).active = true → (s.txn c).pend = true ∨ HasSlot s c
  requested : c = .id → s.seq.astate = .requested → (s.txn c).active = true
  slot : HasSlot s c → (s.txn c).active = true ∧ (s.txn c).sent = true ∧ (s.txn c).pend = false
  pcnt : c = .id ∨ c = .data ∨ ¬ Runs s c → (s.txn c).pcnt = 0

/-- The sequencer's invariants are those of the four classes, and what ASTATE says of ADDR (R110). -/
theorem sequencerInv_iff (s : State) :
    SequencerInv s ↔ (∀ c, ClassInv s c) ∧ (s.seq.astate = .assigned ↔ s.host.addr ≠ s.cfg.unassigned) := by
  constructor
  · intro h
    refine ⟨fun c => ?_, h.assigned_addr⟩
    have hruns : (s.txn c).active = true → Runs s c := by
      intro ha
      refine ⟨?_, ?_⟩
      · by_contra hoff
        have := ((h.seq_off (by simpa using hoff)).2 c).1
        simp [ha] at this
      · by_contra hoff
        have := (h.class_off c (by simpa using hoff)).1
        simp [ha] at this
    refine ⟨h.pend_active c, h.sent_active c, fun ha => ?_, hruns, h.snapshot c, h.due_or_sent c, ?_, ?_, ?_⟩
    · cases c with
      | id => simpa [Machine.allowed] using h.id_active.mp ha
      | req | wd | data => simpa [Machine.allowed] using h.other_active _ (by decide) ha
    · rintro rfl hr
      exact h.id_active.mpr hr
    · rintro ⟨hi, rfl⟩
      exact h.slot hi
    · rintro (rfl | rfl | hoff)
      · exact h.pcnt_id
      · exact h.pcnt_data
      · unfold Runs at hoff
        by_cases hs : s.host.ctrl.seqEn = true
        · exact (h.class_off c (by simpa [hs] using hoff)).2
        · exact ((h.seq_off (by simpa using hs)).2 c).2
  · rintro ⟨h, haddr⟩
    have hoff (c : MsgClass) (hr : ¬ Runs s c) : (s.txn c).active = false ∧ (s.txn c).pcnt = 0 :=
      ⟨by simpa using mt (h c).runs hr, (h c).pcnt (.inr (.inr hr))⟩
    refine ⟨fun c => (h c).pend_active, fun c => (h c).sent_active, ⟨fun ha => ?_, (h .id).requested rfl⟩, ?_,
      fun hi => (h _).slot ⟨hi, rfl⟩, (h .id).pcnt (.inl rfl), (h .data).pcnt (.inr (.inl rfl)), ?_, ?_, haddr,
      fun c => (h c).snapshot, fun c => (h c).due_or_sent⟩
    · simpa [Machine.allowed] using (h .id).allowed ha
    · intro c hc ha
      cases c with
      | id => exact absurd rfl hc
      | req | wd | data => simpa [Machine.allowed] using (h _).allowed ha
    · intro hs
      have hnr (c : MsgClass) : ¬ Runs s c := by simp [Runs, hs]
      refine ⟨?_, fun c => hoff c (hnr c)⟩
      by_contra hi
      exact hnr _ ((h _).runs ((h _).slot ⟨by simpa using hi, rfl⟩).1)
    · intro c hc
      exact hoff c (by simp [Runs, hc])

/-- A frame of the sequencer stays one while the configuration and ADDR do. -/
theorem IsSeqFrame.congr {s t : State} {c : MsgClass} {f : List Byte} (hcfg : t.cfg = s.cfg)
    (ha : t.host.addr = s.host.addr) (h : IsSeqFrame s c f) : IsSeqFrame t c f := by
  unfold IsSeqFrame at *
  rwa [hcfg, ha]

/-- ComposeSeq(c) is a request frame of class `c` (R113). -/
theorem composeSeq_isSeqFrame (s : State) (c : MsgClass) : IsSeqFrame s c (composeSeq s c) := by
  have hb : composeSeq.seqBatt s = Option.map encBatt (if s.host.ctrl.battEn then some s.host.sval.batt else none) := by
    unfold composeSeq.seqBatt
    split <;> rfl
  cases c with
  | id => exact ⟨_, _, _, _, rfl⟩
  | req | wd | data => exact ⟨_, _, congrArg (baseFrame s.cfg _ .request s.host.addr _) hb⟩

namespace ClassInv
variable {s t : State} {c : MsgClass}

/-- A class with no live transaction has nothing due, nothing sent, and not the slot. -/
theorem idle (h : ClassInv s c) (ha : (s.txn c).active = false) :
    (s.txn c).pend = false ∧ (s.txn c).sent = false ∧ ¬ HasSlot s c :=
  ⟨by simpa [ha] using h.pend_active, by simpa [ha] using h.sent_active, fun hs => by simpa [ha] using (h.slot hs).1⟩

/-- A class that is not Allowed has no live transaction (R46). -/
theorem inactive_of_not_allowed (h : ClassInv s c) (hn : Machine.allowed s.seq.astate c = false) :
    (s.txn c).active = false := by
  simpa [hn] using h.allowed

/-- The invariants of a class without a transaction. -/
theorem of_idle (ha : (s.txn c).active = false) (hp : (s.txn c).pend = false) (hs : (s.txn c).sent = false)
    (hslot : ¬ HasSlot s c) (hid : c = .id → s.seq.astate ≠ .requested)
    (hpcnt : c = .id ∨ c = .data ∨ ¬ Runs s c → (s.txn c).pcnt = 0) : ClassInv s c where
  pend_active := by simp [hp]
  sent_active := by simp [hs]
  allowed := by simp [ha]
  runs := by simp [ha]
  snapshot := by simp [ha]
  due_or_sent := by simp [ha]
  requested := fun hc hr => absurd hr (hid hc)
  slot := fun h => absurd h hslot
  pcnt := hpcnt

/-- The invariants of a class whose transaction is ended and whose period counter is clear. -/
theorem of_cleared {x : Txn} (hx : s.txn c = x.cleared) (hslot : ¬ HasSlot s c)
    (hid : c = .id → s.seq.astate ≠ .requested) : ClassInv s c :=
  of_idle (by rw [hx]; rfl) (by rw [hx]; rfl) (by rw [hx]; rfl) hslot hid (fun _ => by rw [hx]; rfl)

/-- A class that had no transaction and still has none keeps its invariants, whatever ASTATE and ADDR become. -/
theorem of_inactive (h : ClassInv s c) (hin : (s.txn c).active = false) (ha : (t.txn c).active = (s.txn c).active)
    (hp : (t.txn c).pend = (s.txn c).pend) (hs : (t.txn c).sent = (s.txn c).sent) (hslot : HasSlot t c → HasSlot s c)
    (hid : c = .id → t.seq.astate ≠ .requested)
    (hpcnt : c = .id ∨ c = .data ∨ ¬ Runs t c → (t.txn c).pcnt = 0) : ClassInv t c := by
  obtain ⟨hp', hs', hslot'⟩ := h.idle hin
  exact of_idle (ha.trans hin) (hp.trans hp') (hs.trans hs') (mt hslot hslot') hid hpcnt

/-- The invariants of a class whose transaction is due (R112, R118). -/
theorem of_due (ha : (s.txn c).active = true) (hp : (s.txn c).pend = true) (hslot : ¬ HasSlot s c)
    (hallowed : Machine.allowed s.seq.astate c = true) (hruns : Runs s c) (hf : IsSeqFrame s c (s.txn c).tf)
    (hpcnt : c = .id ∨ c = .data → (s.txn c).pcnt = 0) : ClassInv s c where
  pend_active := fun _ => ha
  sent_active := fun _ => ha
  allowed := fun _ => hallowed
  runs := fun _ => hruns
  snapshot := fun _ => hf
  due_or_sent := fun _ => .inl hp
  requested := fun _ _ => ha
  slot := fun h => absurd h hslot
  pcnt := by
    rintro (h | h | h)
    · exact hpcnt (.inl h)
    · exact hpcnt (.inr h)
    · exact absurd hruns h

/-- The invariants of a class speak of its transaction less ELAP, of ASTATE, of its hold on the slot, of ADDR and of its
enables. -/
theorem of_same (h : ClassInv s c) (hcfg : t.cfg = s.cfg) (haddr : t.host.addr = s.host.addr)
    (hastate : t.seq.astate = s.seq.astate) (ha : (t.txn c).active = (s.txn c).active)
    (hp : (t.txn c).pend = (s.txn c).pend) (hs : (t.txn c).sent = (s.txn c).sent) (htf : (t.txn c).tf = (s.txn c).tf)
    (hslot : HasSlot t c ↔ HasSlot s c) (hruns : (s.txn c).active = true → Runs s c → Runs t c)
    (hpcnt : c = .id ∨ c = .data ∨ ¬ Runs t c → (t.txn c).pcnt = 0) : ClassInv t c where
  pend_active := by rw [hp, ha]; exact h.pend_active
  sent_active := by rw [hs, ha]; exact h.sent_active
  allowed := by rw [hastate, ha]; exact h.allowed
  runs := by rw [ha]; exact fun hact => hruns hact (h.runs hact)
  snapshot := by rw [ha, htf]; exact fun hact => (h.snapshot hact).congr hcfg haddr
  due_or_sent := by rw [ha, hp, hslot]; exact h.due_or_sent
  requested := by rw [hastate, ha]; exact h.requested
  slot := by rw [hslot, ha, hs, hp]; exact h.slot
  pcnt := hpcnt

/-- A class whose transaction, hold on the slot and enables stay keeps its invariants. -/
theorem of_eq (h : ClassInv s c) (hcfg : t.cfg = s.cfg) (haddr : t.host.addr = s.host.addr)
    (hctrl : t.host.ctrl = s.host.ctrl) (hastate : t.seq.astate = s.seq.astate) (ht : t.txn c = s.txn c)
    (hslot : HasSlot t c ↔ HasSlot s c) : ClassInv t c := by
  have hr : Runs t c ↔ Runs s c := by simp only [Runs, hctrl]
  refine h.of_same hcfg haddr hastate (by rw [ht]) (by rw [ht]) (by rw [ht]) (by rw [ht]) hslot (fun _ => hr.mpr) ?_
  rw [hr, ht]
  exact h.pcnt

end ClassInv

/-- The invariants speak of the sequencer less WCNT, of CTRL, of ADDR and of the configuration. -/
theorem SequencerInv.of_eq {s t : State} (h : SequencerInv s) (hcfg : t.cfg = s.cfg) (haddr : t.host.addr = s.host.addr)
    (hctrl : t.host.ctrl = s.host.ctrl) (hseq : t.seq = { s.seq with wcnt := t.seq.wcnt }) : SequencerInv t := by
  rw [sequencerInv_iff] at *
  obtain ⟨hc, ha⟩ := h
  refine ⟨fun c => (hc c).of_eq hcfg haddr hctrl (by rw [hseq]) (by simp only [State.txn]; rw [hseq]) ?_, ?_⟩
  · simp only [HasSlot]
    rw [hseq]
  · rw [hseq, haddr, hcfg]
    exact ha

/-! ### The slot -/

@[simp] theorem State.txn_setInfl (s : State) (b : Bool) (c : MsgClass) :
    (s.setSeq { s.seq with infl := b }).txn c = s.txn c := rfl

@[simp] theorem hasSlot_setTxn (s : State) (c k : MsgClass) (x : Txn) : HasSlot (s.setTxn c x) k ↔ HasSlot s k := Iff.rfl
@[simp] theorem hasSlot_setAState (s : State) (a : AState) (k : MsgClass) : HasSlot (s.setAState a) k ↔ HasSlot s k := Iff.rfl
@[simp] theorem hasSlot_countEvent (e : Event) (s : State) (k : MsgClass) : HasSlot (countEvent e s) k ↔ HasSlot s k := by
  simp [HasSlot]
@[simp] theorem hasSlot_grant (c k : MsgClass) (s : State) : HasSlot (grant c s) k ↔ k = c := by
  simp [HasSlot, eq_comm]

/-- A class that is freed loses the slot, and no other class does (R112, R121). -/
@[simp] theorem hasSlot_newTxn (c k : MsgClass) (s : State) : HasSlot (newTxn c s) k ↔ HasSlot s k ∧ k ≠ c := by
  simp only [HasSlot, newTxn_eq, State.setSeq_seq, Bool.and_eq_true, decide_eq_true_eq]
  grind

@[simp] theorem hasSlot_endTxn (c k : MsgClass) (s : State) : HasSlot (endTxn c s) k ↔ HasSlot s k ∧ k ≠ c := by
  simp only [HasSlot, endTxn_eq, State.setSeq_seq, Bool.and_eq_true, decide_eq_true_eq]
  grind

@[simp] theorem newTxn_host (c : MsgClass) (s : State) : (newTxn c s).host = s.host := by simp [newTxn_eq]
@[simp] theorem newTxn_astate (c : MsgClass) (s : State) : (newTxn c s).seq.astate = s.seq.astate := by simp [newTxn_eq]
@[simp] theorem endTxn_host (c : MsgClass) (s : State) : (endTxn c s).host = s.host := by simp [endTxn_eq]
@[simp] theorem endTxn_astate (c : MsgClass) (s : State) : (endTxn c s).seq.astate = s.seq.astate := by simp [endTxn_eq]

/-- Freeing a slot the class holds, before its transaction ends, changes nothing (R118, R121). -/
theorem endTxn_of_slot_freed {c : MsgClass} {s : State} (h : HasSlot s c) :
    endTxn c (s.setSeq { s.seq with infl := false }) = endTxn c s := by
  obtain ⟨-, hs⟩ := h
  rw [endTxn_eq, endTxn_eq]
  simp [hs]
  rfl

namespace SequencerInv
variable {s t : State}

theorem classInv (h : SequencerInv s) (c : MsgClass) : ClassInv s c := ((sequencerInv_iff s).mp h).1 c

/-- The invariants hold where no class has a transaction. -/
theorem of_all_idle (hidle : ∀ c, (t.txn c).active = false ∧ (t.txn c).pend = false ∧ (t.txn c).sent = false ∧ ¬ HasSlot t c)
    (hpcnt : ∀ c, c = .id ∨ c = .data ∨ ¬ Runs t c → (t.txn c).pcnt = 0) (hstate : t.seq.astate ≠ .requested)
    (haddr : t.seq.astate = .assigned ↔ t.host.addr ≠ t.cfg.unassigned) : SequencerInv t := by
  refine (sequencerInv_iff t).mpr ⟨fun c => ?_, haddr⟩
  obtain ⟨ha, hp, hs, hslot⟩ := hidle c
  exact .of_idle ha hp hs hslot (fun _ => hstate) (hpcnt c)

/-- An event recorded touches nothing the invariants speak of (R251). -/
theorem countEvent (h : SequencerInv s) (e : Event) : SequencerInv (countEvent e s) :=
  h.of_eq (by simp) (by simp) (by simp) (by rw [countEvent_seq])

/-! ### Arbitration (R114) -/

theorem grant (h : SequencerInv s) {c : MsgClass} (hfree : s.seq.infl = false) (hsend : s.sendable c = true) :
    SequencerInv (grant c s) := by
  refine (sequencerInv_iff _).mpr ⟨fun k => ?_, h.assigned_addr⟩
  have hk := h.classInv k
  by_cases hkc : k = c
  · subst hkc
    simp only [State.sendable, Bool.and_eq_true] at hsend
    have hact := hk.pend_active hsend.1
    have htxn := grant_txn k k s
    rw [if_pos rfl] at htxn
    exact
      { pend_active := by simp [htxn]
        sent_active := by simp [htxn, hact]
        allowed := fun _ => hsend.2
        runs := fun _ => hk.runs hact
        snapshot := fun _ => by rw [htxn]; exact hk.snapshot hact
        due_or_sent := fun _ => .inr ⟨rfl, rfl⟩
        requested := by simp [htxn, hact]
        slot := by simp [htxn, hact]
        pcnt := by rw [htxn]; exact hk.pcnt }
  · refine hk.of_eq rfl rfl rfl rfl (by simp [grant_txn, hkc]) ?_
    rw [hasSlot_grant]
    simp [hkc, HasSlot, hfree]

theorem endOfStep (h : SequencerInv s) : SequencerInv (endOfStep s) := by
  have harb : SequencerInv (arbitrate s) := by
    rcases arbitrate_cases s with ⟨he, -⟩ | ⟨c, -, hfree, hsend, he⟩
    · rwa [he]
    · rw [he]
      exact h.grant hfree hsend
  exact harb.of_eq rfl rfl rfl rfl

/-! ### Transactions created and ended (R112, R121) -/

theorem newTxn (h : SequencerInv s) {c : MsgClass} (hc : c ≠ .id) (hst : s.seq.astate = .assigned) (hruns : Runs s c) :
    SequencerInv (newTxn c s) := by
  refine (sequencerInv_iff _).mpr ⟨fun k => ?_, by simpa using h.assigned_addr⟩
  have hk := h.classInv k
  by_cases hkc : k = c
  · subst hkc
    have htxn := newTxn_txn k k s
    rw [if_pos rfl] at htxn
    refine .of_due (by rw [htxn]) (by rw [htxn]) (by simp) ?_ ?_ ?_ ?_
    · rw [newTxn_astate, hst]
      cases k <;> first | rfl | exact absurd rfl hc
    · simpa [Runs] using hruns
    · rw [htxn]
      exact (composeSeq_isSeqFrame s k).congr (by simp) (by simp)
    · rw [htxn]
      exact fun hcl => hk.pcnt (hcl.imp_right .inl)
  · exact hk.of_eq (by simp) (by simp) (by simp) (by simp) (by simp [newTxn_txn, hkc]) (by simp [hkc])

/-- TRIGGER in UNASSIGNED: no other class has a transaction (R111, R112). -/
theorem trigger (h : SequencerInv s) (hon : s.host.ctrl.seqEn = true) (hst : s.seq.astate = .unassigned) :
    SequencerInv (Machine.newTxn .id (s.setAState .requested)) := by
  refine (sequencerInv_iff _).mpr ⟨fun k => ?_, ?_⟩
  · have hk := h.classInv k
    by_cases hid : k = .id
    · subst hid
      have htxn := newTxn_txn .id .id (s.setAState .requested)
      rw [if_pos rfl] at htxn
      refine .of_due (by rw [htxn]) (by rw [htxn]) (by simp) (by simp [Machine.allowed]) ?_ ?_ ?_
      · simpa [Runs, Ctrl.en] using hon
      · rw [htxn]
        exact (composeSeq_isSeqFrame _ _).congr (by simp) (by simp)
      · rw [htxn]
        exact fun _ => hk.pcnt (.inl rfl)
    · have htxn : (Machine.newTxn .id (s.setAState .requested)).txn k = s.txn k := by simp [newTxn_txn, hid]
      have hin : (s.txn k).active = false := hk.inactive_of_not_allowed (by rw [hst]; cases k <;> rfl)
      refine hk.of_inactive hin (by rw [htxn]) (by rw [htxn]) (by rw [htxn]) (by simp +contextual) (fun hc => absurd hc hid) ?_
      rw [htxn]
      simpa [Runs] using hk.pcnt
  · have := h.assigned_addr
    simpa [hst] using this

theorem endTxn (h : SequencerInv s) {c : MsgClass} (hc : c ≠ .id) : SequencerInv (endTxn c s) := by
  refine (sequencerInv_iff _).mpr ⟨fun k => ?_, by simpa using h.assigned_addr⟩
  have hk := h.classInv k
  by_cases hkc : k = c
  · subst hkc
    have htxn := endTxn_txn k k s
    rw [if_pos rfl] at htxn
    refine .of_idle (by rw [htxn]) (by rw [htxn]) (by rw [htxn]) (by simp) (fun hid => absurd hid hc) ?_
    rw [htxn]
    simpa [Runs] using hk.pcnt
  · exact hk.of_eq (by simp) (by simp) (by simp) (by simp) (by simp [endTxn_txn, hkc]) (by simp [hkc])

/-- In REQUESTED only ID has a transaction, so once that is ended no class has one (R46). -/
theorem all_idle_endTxn_id (h : SequencerInv s) (hst : s.seq.astate = .requested) (c : MsgClass) :
    ((Machine.endTxn .id s).txn c).active = false ∧ ((Machine.endTxn .id s).txn c).pend = false ∧
    ((Machine.endTxn .id s).txn c).sent = false ∧ ¬ HasSlot (Machine.endTxn .id s) c := by
  by_cases hid : c = .id
  · simp [hid, endTxn_txn]
  · have hc := h.classInv c
    have hin : (s.txn c).active = false := by
      refine hc.inactive_of_not_allowed ?_
      rw [hst]
      cases c <;> first | rfl | exact absurd rfl hid
    obtain ⟨hp, hs, hslot⟩ := hc.idle hin
    simp [endTxn_txn, hid, hin, hp, hs, hslot]

/-! ### Responses (R119, R120) -/

theorem acceptIdentification (h : SequencerInv s) (a : Addr) : SequencerInv (acceptIdentification a s) := by
  by_cases hg : s.seq.astate = .requested ∧ a ≠ s.cfg.unassigned
  · have hidle := h.all_idle_endTxn_id hg.1
    rw [acceptIdentification_eq hg]
    refine of_all_idle (fun c => ?_) (fun c hc => ?_) (by simp) (by simpa using hg.2)
    · have := hidle c
      rw [endTxn_eq] at this
      cases c <;> exact this
    · cases c with
      | id => exact h.pcnt_id
      | req => rfl
      | wd => rfl
      | data => exact h.pcnt_data
  · unfold Machine.acceptIdentification
    rwa [if_neg hg]

theorem matchResponse (h : SequencerInv s) (k : MsgClass) (d : Direction) (fb : List Byte) :
    SequencerInv (matchResponse k d fb s) := by
  rcases matchResponse_cases k d fb s with he | ⟨-, -, -, -, ⟨-, -, -, he⟩ | ⟨hk, -, he⟩⟩
  · rwa [he]
  · rw [he]
    exact h.acceptIdentification _
  · rw [he]
    exact (h.endTxn hk).of_eq rfl rfl rfl rfl

theorem dispatchFrame (h : SequencerInv s) (fb : List Byte) (k : MsgClass) (d : Direction) :
    SequencerInv (dispatchFrame fb k d s) := by
  rcases dispatchFrame_cases fb k d s with ⟨-, he⟩ | ⟨-, he⟩
  · rw [he]
    exact (h.countEvent _).matchResponse k d fb
  · rw [he]
    refine matchResponse ?_ k d fb
    exact h.of_eq rfl rfl rfl rfl

theorem startFrame (h : SequencerInv s) (b : Byte) : SequencerInv (startFrame b s) := by
  rcases startFrame_cases b s with ⟨-, he⟩ | ⟨-, -, he⟩ | ⟨k, d, -, -, he⟩
  · rwa [he]
  · rw [he]
    exact h.of_eq (by simp) (by simp) (by simp) (by simp)
  · rw [he]
    exact h.of_eq rfl rfl rfl rfl

theorem collectByte (h : SequencerInv s) (b : Byte) : SequencerInv (collectByte b s) := by
  rcases collectByte_cases b s with ⟨-, -, he⟩ | ⟨-, -, he⟩ | ⟨-, -, -, he⟩ | ⟨-, -, -, he⟩ | ⟨-, he⟩
  · rw [he]
    refine dispatchFrame ?_ _ _ _
    exact h.of_eq rfl rfl rfl rfl
  · rw [he]
    exact h.of_eq (by simp) (by simp) (by simp) (by simp)
  · rw [he]
    exact startFrame (h.of_eq (by simp) (by simp) (by simp) (by simp)) b
  · rw [he]
    exact h.of_eq (by simp) (by simp) (by simp) (by simp)
  · rw [he]
    exact h.of_eq rfl rfl rfl rfl

theorem receiveByte (h : SequencerInv s) (b : Byte) : SequencerInv (receiveByte b s) := by
  unfold Machine.receiveByte
  split
  · split
    · unfold huntByte
      split
      · exact h.of_eq rfl rfl rfl rfl
      · exact h
    · exact h.startFrame b
    · exact h.collectByte b
  · exact h

/-! ### The clocks of a Tick (R115 to R118) -/

/-- The period counter of a class that runs and has one may take any value. -/
theorem setPcnt (h : SequencerInv s) {c : MsgClass} (hid : c ≠ .id) (hdata : c ≠ .data) (hruns : Runs s c) (n : BitVec 16) :
    SequencerInv (s.setTxn c { s.txn c with pcnt := n }) := by
  refine (sequencerInv_iff _).mpr ⟨fun k => ?_, h.assigned_addr⟩
  have hk := h.classInv k
  by_cases hkc : k = c
  · subst hkc
    refine hk.of_same rfl rfl rfl (by simp) (by simp) (by simp) (by simp) Iff.rfl (fun _ => id) ?_
    rintro (hc | hc | hc)
    · exact absurd hc hid
    · exact absurd hc hdata
    · exact absurd hruns hc
  · exact hk.of_eq rfl rfl rfl rfl (by simp [State.txn_setTxn, hkc]) Iff.rfl

theorem cadence (h : SequencerInv s) (hon : s.host.ctrl.seqEn = true) (c : MsgClass) : SequencerInv (cadence c s) := by
  rcases cadence_cases c s with ⟨he, -⟩ | ⟨hst, hen, hper, hcase⟩
  · rwa [he]
  · have hid : c ≠ .id := fun hc => hper (by rw [hc]; rfl)
    have hdata : c ≠ .data := fun hc => hper (by rw [hc]; rfl)
    rcases hcase with ⟨-, he⟩ | ⟨-, he⟩
    · rw [he]
      exact h.setPcnt hid hdata ⟨hon, hen⟩ _
    · rw [he]
      exact newTxn (h.setPcnt hid hdata ⟨hon, hen⟩ 0) hid hst ⟨hon, hen⟩

theorem elapsedStep (h : SequencerInv s) : SequencerInv (elapsedStep s) := by
  rw [elapsedStep_eq]
  refine (sequencerInv_iff _).mpr ⟨fun k => ?_, h.assigned_addr⟩
  have hk := h.classInv k
  have htxn : (s.setSeq { s.seq with
      txn := ⟨s.seq.txn.id.aged, s.seq.txn.req.aged, s.seq.txn.wd.aged, s.seq.txn.data.aged⟩ }).txn k = (s.txn k).aged := by
    cases k <;> rfl
  refine hk.of_same rfl rfl rfl ?_ ?_ ?_ ?_ Iff.rfl (fun _ => id) ?_
  · rw [htxn, Txn.aged_active]
  · rw [htxn, Txn.aged_pend]
  · rw [htxn, Txn.aged_sent]
  · rw [htxn, Txn.aged_tf]
  · rw [htxn, Txn.aged_pcnt]
    exact hk.pcnt

/-- The wait of the class in flight runs out: the resend is due, or the transaction ends (R118). -/
theorem expire (h : SequencerInv s) {c : MsgClass} (hslot : HasSlot s c) : SequencerInv (expire c s) := by
  have hc := h.classInv c
  obtain ⟨hact, -, -⟩ := hc.slot hslot
  rcases expire_cases c s with ⟨-, he⟩ | ⟨-, rfl, he⟩ | ⟨-, hid, he⟩
  · rw [he]
    refine (sequencerInv_iff _).mpr ⟨fun k => ?_, h.assigned_addr⟩
    by_cases hkc : k = c
    · subst hkc
      refine .of_due ?_ ?_ (by simp [HasSlot]) (hc.allowed hact) (hc.runs hact) ?_ ?_
      · simpa using hact
      · simp
      · rw [State.txn_setTxn_self]
        exact (hc.snapshot hact).congr rfl rfl
      · simpa using fun hcl => hc.pcnt (hcl.imp_right .inl)
    · refine (h.classInv k).of_eq rfl rfl rfl rfl (by simp [State.txn_setTxn, hkc]) ?_
      have : s.seq.scls ≠ k := fun hk => hkc (hk.symm.trans hslot.2)
      simp [HasSlot, this]
  · have hst : s.seq.astate = .requested := h.id_active.mp hact
    rw [he, endTxn_of_slot_freed hslot]
    refine of_all_idle (fun k => ?_) (fun k hk => ?_) (by simp) ?_
    · simpa using h.all_idle_endTxn_id hst k
    · have hpcnt : ((Machine.endTxn .id s).txn k).pcnt = (s.txn k).pcnt := by
        rw [endTxn_txn]
        split
        · next hkid => rw [hkid]
        · rfl
      simp only [countEvent_txn, State.setAState_txn, hpcnt]
      exact (h.classInv k).pcnt (by simpa [Runs] using hk)
    · have := h.assigned_addr
      simpa [hst] using this
  · rw [he, endTxn_of_slot_freed hslot]
    exact (h.endTxn hid).countEvent _

theorem waitStep (h : SequencerInv s) : SequencerInv (waitStep s) := by
  unfold Machine.waitStep
  split
  · next hinfl =>
    have h1 : SequencerInv (s.setSeq { s.seq with wcnt := satInc s.seq.wcnt }) := h.of_eq rfl rfl rfl rfl
    dsimp only
    split
    · exact h1.expire ⟨hinfl, rfl⟩
    · exact h1
  · exact h

end SequencerInv

@[simp] theorem cadence_host (c : MsgClass) (s : State) : (cadence c s).host = s.host := by
  rcases cadence_cases c s with ⟨h, -⟩ | ⟨-, -, -, ⟨-, h⟩ | ⟨-, h⟩⟩ <;> simp [h, clearPcnt]

theorem SequencerInv.tickWork {s : State} (h : SequencerInv s) (hon : s.host.ctrl.seqEn = true) :
    SequencerInv (tickWork s) :=
  ((h.cadence hon .req).cadence (by simpa using hon) .wd).elapsedStep.waitStep

/-! ### The CTRL write (R124, R125, R202, R222) -/

@[simp] theorem hasSlot_setHost (s : State) (x : HostRegs) (k : MsgClass) : HasSlot (s.setHost x) k ↔ HasSlot s k := Iff.rfl

/-- What SEQ_EN does when CTRL is written (R124). -/
def seqTransition (old new : Ctrl) (s : State) : State :=
  if old.seqEn = true ∧ new.seqEn = false then seqDisable s else s

/-- What RX_EN does when CTRL is written (R202). -/
def rxTransition (old new : Ctrl) (s : State) : State :=
  if old.rxEn = true ∧ new.rxEn = false then receiverDisable s else s

/-- What the class enables do when CTRL is written (R125). -/
def classTransitions (old new : Ctrl) (s : State) : State :=
  [MsgClass.req, MsgClass.wd, MsgClass.data].foldl (classTransition old new) s

/-- The CTRL write: CTRL takes its bits, then SEQ_EN, RX_EN and the class enables take effect (R222). -/
theorem ctrlWrite_eq (v : Word) (s : State) :
    ctrlWrite v s =
      classTransitions s.host.ctrl (ctrlOf v) (rxTransition s.host.ctrl (ctrlOf v) (seqTransition s.host.ctrl (ctrlOf v)
        (s.setHost { s.host with ctrl := ctrlOf v }))) := rfl

@[simp] theorem seqDisable_host (s : State) : (seqDisable s).host = s.host := by
  simp only [seqDisable, cancelAll_eq]
  split <;> rfl

@[simp] theorem seqDisable_frx (s : State) : (seqDisable s).frx = s.frx := by
  simp only [seqDisable, cancelAll_eq]
  split <;> rfl

theorem seqDisable_astate (s : State) :
    (seqDisable s).seq.astate = if s.seq.astate = .requested then .unassigned else s.seq.astate := by
  simp only [seqDisable, cancelAll_eq, State.setSeq_seq]
  split <;> rfl

@[simp] theorem seqDisable_txn (s : State) (k : MsgClass) : (seqDisable s).txn k = (s.txn k).cleared := by
  simp only [seqDisable, cancelAll_eq, State.setSeq_seq]
  split <;> cases k <;> rfl

@[simp] theorem seqDisable_infl (s : State) : (seqDisable s).seq.infl = false := by
  simp only [seqDisable, cancelAll_eq, State.setSeq_seq]
  split <;> rfl

@[simp] theorem seqTransition_host (old new : Ctrl) (s : State) : (seqTransition old new s).host = s.host := by
  unfold seqTransition
  split <;> simp

@[simp] theorem seqTransition_frx (old new : Ctrl) (s : State) : (seqTransition old new s).frx = s.frx := by
  unfold seqTransition
  split <;> simp

@[simp] theorem rxTransition_host (old new : Ctrl) (s : State) : (rxTransition old new s).host = s.host := by
  unfold rxTransition
  split <;> rfl

@[simp] theorem rxTransition_seq (old new : Ctrl) (s : State) : (rxTransition old new s).seq = s.seq := by
  unfold rxTransition
  split <;> rfl

@[simp] theorem rxTransition_txn (old new : Ctrl) (s : State) (k : MsgClass) :
    (rxTransition old new s).txn k = s.txn k := by
  simp only [State.txn, rxTransition_seq]

@[simp] theorem classTransition_host (old new : Ctrl) (s : State) (c : MsgClass) :
    (classTransition old new s c).host = s.host := by
  unfold classTransition
  split <;> simp [clearPcnt]

@[simp] theorem classTransition_frx (old new : Ctrl) (s : State) (c : MsgClass) :
    (classTransition old new s c).frx = s.frx := by
  unfold classTransition
  split <;> simp [clearPcnt_endTxn_eq]

@[simp] theorem classTransition_astate (old new : Ctrl) (s : State) (c : MsgClass) :
    (classTransition old new s c).seq.astate = s.seq.astate := by
  unfold classTransition
  split <;> simp [clearPcnt]

/-- A class enable that falls frees the slot of its own class (R121, R125). -/
theorem hasSlot_classTransition (old new : Ctrl) (s : State) (c k : MsgClass) :
    HasSlot (classTransition old new s c) k ↔ HasSlot s k ∧ ¬ (k = c ∧ old.en c = true ∧ new.en c = false) := by
  unfold classTransition
  split
  · next h => simp [clearPcnt, h]
  · next h => simp [h]

@[simp] theorem classTransitions_host (old new : Ctrl) (s : State) : (classTransitions old new s).host = s.host := by
  simp [classTransitions]

@[simp] theorem classTransitions_frx (old new : Ctrl) (s : State) : (classTransitions old new s).frx = s.frx := by
  simp [classTransitions]

@[simp] theorem classTransitions_astate (old new : Ctrl) (s : State) :
    (classTransitions old new s).seq.astate = s.seq.astate := by
  simp [classTransitions]

/-- ID has no enable that could fall (R24), so the transitions of the other three are those of every class. -/
theorem classTransitions_txn (old new : Ctrl) (s : State) (k : MsgClass) :
    (classTransitions old new s).txn k = if old.en k = true ∧ new.en k = false then (s.txn k).cleared else s.txn k := by
  simp only [classTransitions, List.foldl_cons, List.foldl_nil, classTransition_txn]
  by_cases h : old.en k = true ∧ new.en k = false
  · cases k with
    | id => exact absurd h.2 (by simp [Ctrl.en])
    | req | wd | data => simp [h]
  · have hk (c : MsgClass) : ¬ (k = c ∧ old.en c = true ∧ new.en c = false) := by
      rintro ⟨rfl, hc⟩
      exact h hc
    simp only [hk, h, if_false]

theorem hasSlot_classTransitions (old new : Ctrl) (s : State) (k : MsgClass) :
    HasSlot (classTransitions old new s) k ↔ HasSlot s k ∧ ¬ (old.en k = true ∧ new.en k = false) := by
  simp only [classTransitions, List.foldl_cons, List.foldl_nil, hasSlot_classTransition]
  cases k <;> simp [Ctrl.en]

/-- Of the host registers a CTRL write changes CTRL alone (R222). -/
theorem ctrlWrite_host (v : Word) (s : State) : (ctrlWrite v s).host = { s.host with ctrl := ctrlOf v } := by
  simp [ctrlWrite_eq]

/-- RX_EN that falls resets the receiver (R202). -/
theorem ctrlWrite_frx (v : Word) (s : State) :
    (ctrlWrite v s).frx =
      if s.host.ctrl.rxEn = true ∧ (ctrlOf v).rxEn = false then { s.frx with rxs := .idle, rn := 0, rsd := false }
      else s.frx := by
  rw [ctrlWrite_eq, classTransitions_frx, rxTransition]
  split <;> simp [receiverDisable]

/-- The CTRL write ends the transaction of class `c`: SEQ_EN falls, or the class's enable does (R124, R125). -/
def EnableFalls (old new : Ctrl) (c : MsgClass) : Prop :=
  (old.seqEn = true ∧ new.seqEn = false) ∨ (old.en c = true ∧ new.en c = false)

/-- SEQ_EN that falls returns REQUESTED to UNASSIGNED (R124). -/
theorem ctrlWrite_astate (v : Word) (s : State) :
    (ctrlWrite v s).seq.astate =
      if (s.host.ctrl.seqEn = true ∧ (ctrlOf v).seqEn = false) ∧ s.seq.astate = .requested then .unassigned
      else s.seq.astate := by
  rw [ctrlWrite_eq, classTransitions_astate, rxTransition_seq, seqTransition]
  by_cases hq : s.host.ctrl.seqEn = true ∧ (ctrlOf v).seqEn = false
  · rw [if_pos hq, seqDisable_astate, State.setHost_seq]
    split_ifs <;> simp_all
  · rw [if_neg hq, if_neg (fun h => hq h.1), State.setHost_seq]

/-- A transaction whose enable falls is ended and its period counter cleared (R123 to R125). -/
theorem ctrlWrite_txn_of_falls {v : Word} {s : State} {k : MsgClass} (h : EnableFalls s.host.ctrl (ctrlOf v) k) :
    (ctrlWrite v s).txn k = (s.txn k).cleared := by
  rw [ctrlWrite_eq, classTransitions_txn, rxTransition_txn, seqTransition]
  rcases h with hq | he
  · rw [if_pos hq, seqDisable_txn]
    split <;> rfl
  · rw [if_pos he]
    split
    · rw [seqDisable_txn]
      rfl
    · rfl

/-- A transaction whose enables stay is left alone (R124, R125). -/
theorem ctrlWrite_txn_of_stays {v : Word} {s : State} {k : MsgClass} (h : ¬ EnableFalls s.host.ctrl (ctrlOf v) k) :
    (ctrlWrite v s).txn k = s.txn k := by
  obtain ⟨hq, he⟩ := not_or.mp h
  rw [ctrlWrite_eq, classTransitions_txn, rxTransition_txn, seqTransition, if_neg he, if_neg hq, State.setHost_txn]

/-- The slot is freed where the enable of its class falls (R121, R123 to R125). -/
theorem hasSlot_ctrlWrite (v : Word) (s : State) (k : MsgClass) :
    HasSlot (ctrlWrite v s) k ↔ HasSlot s k ∧ ¬ EnableFalls s.host.ctrl (ctrlOf v) k := by
  have hrx (t : State) : HasSlot (rxTransition s.host.ctrl (ctrlOf v) t) k ↔ HasSlot t k := by simp [HasSlot]
  rw [ctrlWrite_eq, hasSlot_classTransitions, hrx, seqTransition, EnableFalls]
  by_cases hq : s.host.ctrl.seqEn = true ∧ (ctrlOf v).seqEn = false
  · simp [hq, HasSlot]
  · simp [hq]

/-- A register write, less CTRL and CMD, moves the registers the host owns and the table, and nothing else (R229 to R232). -/
theorem writeReg_of_ne_ctrl {r : Reg} (hr : r ≠ .ctrl) (v : Word) (s : State) :
    let t := writeReg r v s
    t.host = { s.host with
      idcfg := t.host.idcfg, sval := t.host.sval, rtdIn := t.host.rtdIn, txcfg := t.host.txcfg
      txaddr := t.host.txaddr, intstat := t.host.intstat, inten := t.host.inten } ∧
    t.frx = s.frx ∧ t.seq = s.seq ∧ t.out = s.out := by
  cases r with
  | ctrl => exact absurd rfl hr
  | period c =>
    simp only [writeReg, periodWrite]
    split <;> exact ⟨rfl, rfl, rfl, rfl⟩
  | retry c =>
    simp only [writeReg, retryWrite]
    split <;> exact ⟨rfl, rfl, rfl, rfl⟩
  | _ => exact ⟨rfl, rfl, rfl, rfl⟩

/-! ### Every step keeps the sequencer's invariants -/

namespace SequencerInv
variable {s : State}

/-- A CTRL write takes each class's transaction with its enable (R124, R125). -/
theorem ctrlWrite (h : SequencerInv s) (v : Word) : SequencerInv (ctrlWrite v s) := by
  have hcfg : (Machine.ctrlWrite v s).cfg = s.cfg := (ctrlWrite_cfg_inputs v s).1
  have haddr : (Machine.ctrlWrite v s).host.addr = s.host.addr := by rw [ctrlWrite_host]
  have hctrl : (Machine.ctrlWrite v s).host.ctrl = ctrlOf v := by rw [ctrlWrite_host]
  have hastate := ctrlWrite_astate v s
  refine (sequencerInv_iff _).mpr ⟨fun k => ?_, ?_⟩
  · have hk := h.classInv k
    by_cases hf : EnableFalls s.host.ctrl (ctrlOf v) k
    · refine .of_cleared (ctrlWrite_txn_of_falls hf) (by simp [hasSlot_ctrlWrite, hf]) ?_
      rintro rfl
      have hq : s.host.ctrl.seqEn = true ∧ (ctrlOf v).seqEn = false := by simpa [EnableFalls, Ctrl.en] using hf
      simp only [hq, and_self, true_and] at hastate
      rw [hastate]
      split <;> simp_all
    · have htxn := ctrlWrite_txn_of_stays hf
      have hslot := hasSlot_ctrlWrite v s k
      have hast : (Machine.ctrlWrite v s).seq.astate = s.seq.astate := by
        obtain ⟨hstays, -⟩ := not_or.mp hf
        rw [hastate, if_neg (fun hq => hstays hq.1)]
      have hruns : Runs s k → Runs (Machine.ctrlWrite v s) k := by
        rintro ⟨hq, he⟩
        simpa [Runs, hctrl, EnableFalls, hq, he] using hf
      refine hk.of_same hcfg haddr hast (by rw [htxn]) (by rw [htxn]) (by rw [htxn]) (by rw [htxn]) (by simp [hslot, hf])
        (fun _ => hruns) ?_
      rw [htxn]
      exact fun hc => hk.pcnt (hc.imp_right (.imp_right (mt hruns)))
  · have := h.assigned_addr
    rw [hastate, haddr, hcfg]
    split <;> simp_all

theorem writeReg (h : SequencerInv s) (r : Reg) (v : Word) : SequencerInv (writeReg r v s) := by
  by_cases hr : r = .ctrl
  · exact hr ▸ h.ctrlWrite v
  · obtain ⟨hhost, -, hseq, -⟩ := writeReg_of_ne_ctrl hr v s
    exact h.of_eq (writeReg_cfg_inputs r v s).1 (by rw [hhost]) (by rw [hhost]) (by rw [hseq])

theorem unassignWork (s : State) : SequencerInv (unassignWork s) := by
  have htxn (c : MsgClass) : (Machine.unassignWork s).txn c = (s.txn c).cleared := by
    simp only [Machine.unassignWork, cancelAll_eq]
    cases c <;> rfl
  have hseq : (Machine.unassignWork s).seq.infl = false ∧ (Machine.unassignWork s).seq.astate = .unassigned := by
    simp [Machine.unassignWork, cancelAll_eq]
  refine of_all_idle (fun c => ?_) (fun c _ => by rw [htxn]; rfl) (by simp [hseq.2]) ?_
  · rw [htxn]
    exact ⟨rfl, rfl, rfl, by simp [HasSlot, hseq.1]⟩
  · simp [Machine.unassignWork, cancelAll_eq]

theorem resetWork (nv : Addr) (s : State) : SequencerInv (resetWork nv s) := by
  have htxn (c : MsgClass) : (Machine.resetWork nv s).txn c = Txn.reset := by cases c <;> rfl
  refine of_all_idle (fun c => ?_) (fun c _ => by rw [htxn]; rfl) ?_ ?_
  · rw [htxn]
    exact ⟨rfl, rfl, rfl, by simp [HasSlot, Machine.resetWork, State.resetWith, Sequencer.reset]⟩
  · simp only [Machine.resetWork, State.resetWith, Sequencer.reset]
    split <;> simp
  · simp only [Machine.resetWork, State.resetWith, Sequencer.reset, HostRegs.reset]
    split <;> simp_all

theorem kept : KeptByWork SequencerInv where
  inputs _ h := h.of_eq rfl rfl rfl rfl
  ended h := h.endOfStep
  byte b h := h.receiveByte b
  tick hon h := h.tickWork hon
  trigger hon hst h := h.trigger hon hst
  dataEvent hon hst hen h := h.newTxn (by decide) hst ⟨hon, hen⟩
  unassign _ := unassignWork _
  reset nv _ := resetWork nv _
  read _ h := h.of_eq rfl rfl rfl rfl
  transmit _ h := h.of_eq rfl rfl rfl rfl
  rxPop h := h.of_eq rfl rfl rfl rfl
  clrErr h := h.of_eq rfl rfl rfl rfl
  reserved h := h.countEvent _
  write r v h := h.writeReg r v

end SequencerInv

/-- Settles O39: the works of the events and the end of a step keep the invariants of every class. -/
theorem stepKeepsSequencerInv : Obligations.StepKeepsSequencerInv :=
  fun _ _ hs he => SequencerInv.kept.step hs he

end Sys2Proof.Machine

/-! SUPPORT. The receiver's invariants, those of the scan and those of the holding register (spec/43_framing_checksum.md R194
to R202, spec/10_state.md R35), and that every step keeps them. -/
namespace Sys2Proof.Machine
open Sys2Proof

/-! ### The holding register (R35) -/

/-- What `ReceiverInv` says of the holding register (R25, R35). -/
structure HoldingInv (i : RxInfo) (valid : Bool) : Prop where
  len : i.len = 0 ∨ i.len.toNat ∈ candLens i.kind
  batt : i.hasBatt = decide (i.len = 10)
  held : valid = true → i.len ≠ 0

@[simp] theorem countEvent_rxinfo (e : Event) (s : State) : (countEvent e s).host.rxinfo = s.host.rxinfo := by
  cases e <;> rfl
@[simp] theorem countEvent_rxfValid (e : Event) (s : State) : (countEvent e s).host.rxfValid = s.host.rxfValid := by
  cases e <;> rfl

theorem maxLen_le (k : MsgClass) : maxLen k ≤ 10 := by cases k <;> decide

/-- The copy of a frame of a candidate length meets the invariants (R35, R200). -/
theorem HoldingInv.of_holdFrame {fb : List Byte} {k : MsgClass} (hlen : fb.length ∈ candLens k) (d : Direction)
    (h : HostRegs) : HoldingInv (holdFrame fb k d h).rxinfo (holdFrame fb k d h).rxfValid := by
  obtain ⟨hlo, hhi⟩ := candLens_range hlen
  have hmax := maxLen_le k
  have hnat : (BitVec.ofNat 4 fb.length).toNat = fb.length := by
    rw [BitVec.toNat_ofNat]
    omega
  have h10 : BitVec.ofNat 4 fb.length = 10 ↔ fb.length = 10 := by
    rw [← BitVec.toNat_inj, hnat]
    rfl
  have h0 : BitVec.ofNat 4 fb.length ≠ 0 := by
    intro he
    rw [← BitVec.toNat_inj, hnat] at he
    simp only [BitVec.ofNat_eq_ofNat, BitVec.toNat_ofNat] at he
    omega
  refine ⟨.inr ?_, ?_, fun _ => h0⟩
  · simpa only [holdFrame, hnat] using hlen
  · simp only [holdFrame, h10, Bool.beq_eq_decide_eq]

/-! ### The scan (R194 to R198) -/

/-- What `ReceiverInv` says of the scan (R194 to R198, R202). -/
structure ScanInv (tc : TypeCodes) (rxEn : Bool) (f : Receiver) : Prop where
  outside : f.rxs ≠ .collect → f.rn = 0 ∧ f.rsd = false
  inside : f.rxs = .collect →
    1 ≤ f.rn ∧ f.rn < maxLen f.rk ∧ classify tc (f.rb.toList.getD 0 0) = some (f.rk, f.rd)
  short_seen : f.rsd = true → f.rk ≠ .id ∧ f.rn = 9
  disabled : rxEn = false → f.rxs = .idle

theorem receiverInv_iff (s : State) :
    ReceiverInv s ↔
      ScanInv s.cfg.tc s.host.ctrl.rxEn s.frx ∧ HoldingInv s.host.rxinfo s.host.rxfValid :=
  ⟨fun h => ⟨⟨h.outside, h.inside, h.short_seen, h.disabled⟩, ⟨h.info_len, h.info_batt, h.held⟩⟩,
    fun ⟨hs, hh⟩ => ⟨hs.outside, hs.inside, hs.short_seen, hs.disabled, hh.len, hh.batt, hh.held⟩⟩

/-- A receiver outside a frame that holds no byte. -/
theorem ScanInv.of_outside {tc : TypeCodes} {rxEn : Bool} {f : Receiver} (hx : f.rxs ≠ .collect) (hn : f.rn = 0)
    (hr : f.rsd = false) (hd : rxEn = false → f.rxs = .idle) : ScanInv tc rxEn f where
  outside _ := ⟨hn, hr⟩
  inside h := absurd h hx
  short_seen h := by simp [hr] at h
  disabled := hd

/-- The byte at `p` of a buffer with a byte stored at `n`. -/
theorem getD_toList_setIfInBounds (rb : Vector Byte 10) (n : Nat) (b : Byte) (p : Nat) :
    (rb.setIfInBounds n b).toList.getD p 0 = if p = n ∧ n < 10 then b else rb.toList.getD p 0 := by
  have hlen : rb.toList.length = 10 := rb.length_toList
  rw [Vector.toList_setIfInBounds, List.getD_eq_getElem?_getD, List.getD_eq_getElem?_getD, List.getElem?_set, hlen]
  by_cases hp : n = p
  · by_cases hn : n < 10
    · simp [hp, hp ▸ hn]
    · simp [hp, show ¬ p < 10 by omega, hlen]
  · simp [hp, Ne.symm hp]

/-- A type code starts a frame (R195). -/
theorem ScanInv.of_start {tc : TypeCodes} {b : Byte} {k : MsgClass} {d : Direction} (hc : classify tc b = some (k, d))
    (rb : Vector Byte 10) : ScanInv tc true ⟨.collect, rb.setIfInBounds 0 b, 1, k, d, false⟩ where
  outside h := absurd rfl h
  inside _ := ⟨le_rfl, by cases k <;> exact Nat.lt_of_sub_eq_succ rfl, by simpa [getD_toList_setIfInBounds] using hc⟩
  short_seen h := by simp at h
  disabled h := by simp at h

/-- A byte that ends no frame is stored; RSD is set only at the short candidate length, which is 9 (R196, R198). -/
theorem ScanInv.store {tc : TypeCodes} {f : Receiver} (h : ScanInv tc true f) (hx : f.rxs = .collect) (b : Byte)
    (hmax : f.rn + 1 ≠ maxLen f.rk) :
    ScanInv tc true { f with
      rb := f.rb.setIfInBounds f.rn b, rn := f.rn + 1
      rsd := f.rsd || (b == DELIM && (candLens f.rk).contains (f.rn + 1)) } where
  outside hc := absurd hx hc
  inside _ := by
    obtain ⟨hlo, hhi, hc⟩ := h.inside hx
    refine ⟨Nat.le_add_left _ _, by dsimp only; omega, ?_⟩
    rw [getD_toList_setIfInBounds, if_neg (by omega)]
    exact hc
  short_seen hr := by
    simp only [Bool.or_eq_true, Bool.and_eq_true, List.contains_iff_mem] at hr
    obtain ⟨hlo, hhi, -⟩ := h.inside hx
    rcases hr with hr | ⟨-, hmem⟩
    · obtain ⟨hk, hn⟩ := h.short_seen hr
      have := maxLen_le f.rk
      omega
    · cases hk : f.rk <;> simp_all [candLens, maxLen]
  disabled h := by simp at h

namespace ReceiverInv
variable {s t : State}

theorem scan (h : ReceiverInv s) : ScanInv s.cfg.tc s.host.ctrl.rxEn s.frx := ((receiverInv_iff s).mp h).1
theorem holding (h : ReceiverInv s) : HoldingInv s.host.rxinfo s.host.rxfValid := ((receiverInv_iff s).mp h).2

/-- The invariants speak of the receiver, of RX_EN, of RXINFO and RXF_VALID and of the configuration. -/
theorem of_eq (h : ReceiverInv s) (hcfg : t.cfg = s.cfg) (hctrl : t.host.ctrl = s.host.ctrl) (hfrx : t.frx = s.frx)
    (hinfo : t.host.rxinfo = s.host.rxinfo) (hvalid : t.host.rxfValid = s.host.rxfValid) : ReceiverInv t := by
  rw [receiverInv_iff] at *
  rwa [hcfg, hctrl, hfrx, hinfo, hvalid]

/-- An update of the sequencer and of the outputs is none of the receiver's. -/
theorem of_host_frx (h : ReceiverInv s) (hcfg : t.cfg = s.cfg) (hhost : t.host = s.host) (hfrx : t.frx = s.frx) :
    ReceiverInv t :=
  h.of_eq hcfg (by rw [hhost]) hfrx (by rw [hhost]) (by rw [hhost])

/-- The receiver moved to a state that meets the invariants of the scan. -/
theorem setFrx (h : ReceiverInv s) {f : Receiver} (hf : ScanInv s.cfg.tc s.host.ctrl.rxEn f) : ReceiverInv (s.setFrx f) :=
  (receiverInv_iff _).mpr ⟨hf, h.holding⟩

theorem countEvent (h : ReceiverInv s) (e : Event) : ReceiverInv (countEvent e s) :=
  h.of_eq (by simp) (by simp) (by simp) (by simp) (by simp)

/-- A frame discarded: the event is recorded and the receiver leaves the frame (R196). -/
theorem discard (h : ReceiverInv s) (e : Event) (f : Receiver) {g : Receiver}
    (hg : ScanInv s.cfg.tc s.host.ctrl.rxEn g) : ReceiverInv ((Machine.countEvent e (s.setFrx f)).setFrx g) :=
  (receiverInv_iff _).mpr ⟨by simpa using hg, by simpa using h.holding⟩

/-! ### One byte (R194 to R202) -/

theorem matchResponse (h : ReceiverInv s) (k : MsgClass) (d : Direction) (fb : List Byte) :
    ReceiverInv (matchResponse k d fb s) := by
  have hhost := matchResponse_host k d fb s
  exact h.of_eq (by simp) (by rw [hhost]) (by simp) (by rw [hhost]) (by rw [hhost])

theorem dispatchFrame (h : ReceiverInv s) {fb : List Byte} {k : MsgClass} (hlen : fb.length ∈ candLens k) (d : Direction) :
    ReceiverInv (dispatchFrame fb k d s) := by
  rcases dispatchFrame_cases fb k d s with ⟨-, he⟩ | ⟨-, he⟩
  · rw [he]
    exact (h.countEvent _).matchResponse k d fb
  · rw [he]
    refine matchResponse ?_ k d fb
    exact (receiverInv_iff _).mpr ⟨h.scan, .of_holdFrame hlen d s.host⟩

theorem startFrame (h : ReceiverInv s) (hon : s.host.ctrl.rxEn = true) (hx : s.frx.rxs = .idle) (b : Byte) :
    ReceiverInv (startFrame b s) := by
  obtain ⟨hn, hr⟩ := h.outside (by simp [hx])
  rcases startFrame_cases b s with ⟨-, he⟩ | ⟨-, -, he⟩ | ⟨k, d, -, hc, he⟩
  · rwa [he]
  · rw [he]
    exact (h.countEvent _).setFrx (.of_outside (by simp) hn hr (by simp [hon]))
  · rw [he]
    refine h.setFrx ?_
    rw [hon]
    exact .of_start hc _

theorem collectByte (h : ReceiverInv s) (hon : s.host.ctrl.rxEn = true) (hx : s.frx.rxs = .collect) (b : Byte) :
    ReceiverInv (collectByte b s) := by
  have hout (rb : Vector Byte 10) : ReceiverInv (s.setFrx { s.frx with rxs := .idle, rb := rb, rn := 0, rsd := false }) :=
    h.setFrx (.of_outside (by simp) rfl rfl (by simp))
  rcases collectByte_cases b s with ⟨hcand, -, he⟩ | ⟨-, -, he⟩ | ⟨-, -, -, he⟩ | ⟨-, -, -, he⟩ | ⟨hmax, he⟩
  · rw [he]
    simp only [Bool.and_eq_true, List.contains_iff_mem] at hcand
    obtain ⟨-, hhi⟩ := candLens_range hcand.2
    have hmax := maxLen_le s.frx.rk
    refine (hout _).dispatchFrame ?_ _
    rw [List.length_take, Vector.length_toList, Nat.min_eq_left (by omega)]
    exact hcand.2
  · rw [he]
    exact h.discard _ _ (.of_outside (by simp) rfl rfl (by simp))
  · rw [he]
    exact (h.discard _ _ (.of_outside (by simp) rfl rfl (by simp))).startFrame (by simpa using hon) rfl b
  · rw [he]
    exact h.discard _ _ (.of_outside (by simp) rfl rfl (by simp [hon]))
  · rw [he]
    have hscan := h.scan
    rw [hon] at hscan
    refine h.setFrx ?_
    rw [hon]
    exact hscan.store hx b hmax

theorem receiveByte (h : ReceiverInv s) (b : Byte) : ReceiverInv (receiveByte b s) := by
  unfold Machine.receiveByte
  split
  · next hon =>
    split
    · next hx =>
      unfold huntByte
      split
      · obtain ⟨hn, hr⟩ := h.outside (by simp [hx])
        exact h.setFrx (.of_outside (by simp) hn hr (by simp))
      · exact h
    · next hx => exact h.startFrame hon hx b
    · next hx => exact h.collectByte hon hx b
  · exact h

/-! ### The works of the other events -/

theorem newTxn (h : ReceiverInv s) (c : MsgClass) : ReceiverInv (newTxn c s) :=
  h.of_host_frx (by simp [newTxn_eq]) (by simp) (by simp [newTxn_eq])

theorem endTxn (h : ReceiverInv s) (c : MsgClass) : ReceiverInv (endTxn c s) :=
  h.of_host_frx (by simp [endTxn_eq]) (by simp) (by simp [endTxn_eq])

theorem setSeq (h : ReceiverInv s) (q : Sequencer) : ReceiverInv (s.setSeq q) := h.of_host_frx rfl rfl rfl

theorem cadence (h : ReceiverInv s) (c : MsgClass) : ReceiverInv (cadence c s) := by
  rcases cadence_cases c s with ⟨he, -⟩ | ⟨-, -, -, ⟨-, he⟩ | ⟨-, he⟩⟩
  · rwa [he]
  · rw [he]
    exact h.setSeq _
  · rw [he]
    exact (h.setSeq _).newTxn c

theorem elapsedStep (h : ReceiverInv s) : ReceiverInv (elapsedStep s) := by
  rw [elapsedStep_eq]
  exact h.setSeq _

theorem expire (h : ReceiverInv s) (c : MsgClass) : ReceiverInv (expire c s) := by
  rcases expire_cases c s with ⟨-, he⟩ | ⟨-, -, he⟩ | ⟨-, -, he⟩
  · rw [he]
    exact (h.setSeq _).setSeq _
  · rw [he]
    exact (((h.setSeq _).endTxn c).setSeq _).countEvent _
  · rw [he]
    exact ((h.setSeq _).endTxn c).countEvent _

theorem waitStep (h : ReceiverInv s) : ReceiverInv (waitStep s) := by
  unfold Machine.waitStep
  split
  · have h1 := h.setSeq { s.seq with wcnt := satInc s.seq.wcnt }
    dsimp only
    split
    · exact h1.expire _
    · exact h1
  · exact h

theorem unassignWork (h : ReceiverInv s) : ReceiverInv (unassignWork s) := by
  refine h.of_eq ?_ ?_ ?_ ?_ ?_ <;> simp [Machine.unassignWork, cancelAll_eq]

theorem resetWork (nv : Addr) (s : State) : ReceiverInv (resetWork nv s) :=
  (receiverInv_iff _).mpr
    ⟨.of_outside (by simp [Machine.resetWork, State.resetWith, Receiver.reset]) rfl rfl (fun _ => rfl),
      { len := .inl rfl, batt := rfl, held := fun hv => absurd hv Bool.false_ne_true }⟩

/-- RX_EN that falls leaves the receiver idle (R202). -/
theorem ctrlWrite (h : ReceiverInv s) (v : Word) : ReceiverInv (ctrlWrite v s) := by
  rw [receiverInv_iff, ctrlWrite_host, (ctrlWrite_cfg_inputs v s).1, ctrlWrite_frx]
  refine ⟨?_, h.holding⟩
  split
  · exact .of_outside (by simp) rfl rfl (fun _ => rfl)
  · next hstay =>
    refine ⟨h.outside, h.inside, h.short_seen, fun hoff => h.disabled ?_⟩
    have hnew : (ctrlOf v).rxEn = false := hoff
    simpa [hnew] using hstay

theorem writeReg (h : ReceiverInv s) (r : Reg) (v : Word) : ReceiverInv (writeReg r v s) := by
  by_cases hr : r = .ctrl
  · exact hr ▸ h.ctrlWrite v
  · obtain ⟨hhost, hfrx, -, -⟩ := writeReg_of_ne_ctrl hr v s
    exact h.of_eq (writeReg_cfg_inputs r v s).1 (by rw [hhost]) hfrx (by rw [hhost]) (by rw [hhost])

theorem kept : KeptByWork ReceiverInv where
  inputs _ h := h.of_host_frx rfl rfl rfl
  ended h := h.of_host_frx (by simp) (by simp) (by simp)
  byte b h := h.receiveByte b
  tick _ h := ((h.cadence .req).cadence .wd).elapsedStep.waitStep
  trigger _ _ h := (h.setSeq _).newTxn .id
  dataEvent _ _ _ h := h.newTxn .data
  unassign h := h.unassignWork
  reset nv _ := resetWork nv _
  read _ h := h.of_host_frx rfl rfl rfl
  transmit _ h := h.of_host_frx rfl rfl rfl
  rxPop h := (receiverInv_iff _).mpr ⟨h.scan, h.info_len, h.info_batt, fun hv => absurd hv Bool.false_ne_true⟩
  clrErr h := h.of_eq rfl rfl rfl rfl rfl
  reserved h := h.countEvent _
  write r v h := h.writeReg r v

end ReceiverInv

/-- Settles O40: the works of the events and the end of a step keep the invariants of the scan and of the holding
register. -/
theorem stepKeepsReceiverInv : Obligations.StepKeepsReceiverInv :=
  fun _ _ hs he => ReceiverInv.kept.step hs he

end Sys2Proof.Machine

/-! SUPPORT. A whole frame on the wire: the type codes and what classifies as one (spec/41_response_type.md R161, R164), the
scan of a frame byte by byte and its dispatch at the last byte (spec/43_framing_checksum.md R194 to R200), and what the host
and the sequencer get of it (R200, R201; spec/40_sequencer.md R119, R120). -/
namespace Sys2Proof.Machine
open Sys2Proof

/-! ### Type codes (R90, R160, R161, R164) -/

/-- A legal code has bit 5 clear and is not the delimiter (V1, V3 of R90). -/
theorem legal_code (tc : TypeCodes) (k : MsgClass) : tc.code.get k &&& 0x20 = 0 ∧ tc.code.get k ≠ DELIM := by
  have h := tc.legal
  simp only [legalCodes, List.all_cons, List.all_nil, Bool.and_true, Bool.and_eq_true, beq_iff_eq, bne_iff_ne] at h
  obtain ⟨⟨⟨⟨⟨⟨⟨hid, hreq, hwd, hdata⟩, -⟩, -⟩, -⟩, -⟩, -⟩, -⟩ := h
  cases k with
  | id => exact hid
  | req => exact hreq
  | wd => exact hwd
  | data => exact hdata

/-- Legal codes are pairwise distinct (V2 of R90). -/
theorem code_injective (tc : TypeCodes) {k k' : MsgClass} (h : tc.code.get k = tc.code.get k') : k = k' := by
  have hl := tc.legal
  simp only [legalCodes, Bool.and_eq_true, bne_iff_ne] at hl
  obtain ⟨⟨⟨⟨⟨⟨-, h01⟩, h02⟩, h03⟩, h12⟩, h13⟩, h23⟩ := hl
  cases k <;> cases k' <;> simp_all [PerClass.get, eq_comm]

/-- Bit 5 of a type code is its direction (R160). -/
theorem typeCode_bit5 (tc : TypeCodes) (k : MsgClass) (d : Direction) :
    (typeCode tc k d).getLsbD 5 = d.toBool := by
  cases d with
  | request =>
    have h := congrArg (fun v => v.getLsbD 5) (legal_code tc k).1
    simpa [typeCode, Direction.toBool] using h
  | response => simp [typeCode, deriveResponse, Direction.toBool]

/-- Below bit 5 and above it a type code is its class's code (R160). -/
theorem typeCode_and_not (tc : TypeCodes) (k : MsgClass) (d : Direction) :
    typeCode tc k d &&& ~~~0x20 = tc.code.get k := by
  have h := (legal_code tc k).1
  have hk : tc.code.get k &&& ~~~0x20 = tc.code.get k := by
    calc tc.code.get k &&& ~~~0x20
        = (tc.code.get k &&& 0x20) ||| (tc.code.get k &&& ~~~0x20) := by rw [h]; simp
      _ = tc.code.get k &&& BitVec.allOnes 8 := by rw [← BitVec.and_or_distrib_left]; rfl
      _ = tc.code.get k := BitVec.and_allOnes
  cases d with
  | request => exact hk
  | response =>
    calc deriveResponse (tc.code.get k) &&& ~~~0x20
        = (tc.code.get k &&& ~~~0x20) ||| (0x20 &&& ~~~0x20) := BitVec.and_or_distrib_right
      _ = tc.code.get k := by rw [hk]; simp

/-- The eight type codes are distinct (R164). -/
theorem typeCode_inj (tc : TypeCodes) {k k' : MsgClass} {d d' : Direction} :
    typeCode tc k d = typeCode tc k' d' ↔ k = k' ∧ d = d' := by
  constructor
  · intro h
    have hd : d.toBool = d'.toBool := by rw [← typeCode_bit5 tc k d, h, typeCode_bit5]
    have hk : tc.code.get k = tc.code.get k' := by rw [← typeCode_and_not tc k d, h, typeCode_and_not]
    exact ⟨code_injective tc hk, by cases d <;> cases d' <;> simp_all [Direction.toBool]⟩
  · rintro ⟨rfl, rfl⟩
    rfl

theorem typeCode_ne_delim (tc : TypeCodes) (k : MsgClass) (d : Direction) : typeCode tc k d ≠ DELIM := by
  cases d with
  | request => exact (legal_code tc k).2
  | response =>
    intro h
    have := typeCode_bit5 tc k .response
    rw [h] at this
    simp [Direction.toBool] at this

/-- Each type code classifies as its own class and direction (R161). -/
theorem classify_typeCode (tc : TypeCodes) (k : MsgClass) (d : Direction) :
    classify tc (typeCode tc k d) = some (k, d) := by
  cases k <;> cases d <;> simp [classify, classes, classifyAs, typeCode_inj]

/-! ### Frames (R192, R198, R199) -/

/-- The bytes are one frame of class `k` and direction `d`, and no shorter candidate ends in them (R99, R198). -/
structure IsWireFrame (cfg : Config) (k : MsgClass) (d : Direction) (fb : List Byte) : Prop where
  type : fb.getD 0 0 = typeCode cfg.tc k d
  len : fb.length ∈ candLens k
  ends : endsAt cfg.chk fb fb.length = true
  first : ∀ n ∈ candLens k, n < fb.length → endsAt cfg.chk fb n = false

theorem IsWireFrame.of_baseFrame {cfg : Config} {k : MsgClass} {d : Direction} {a : Addr} {val : Byte} {batt : Option Byte}
    (hk : k ≠ .id) (h : noCollision cfg k d a val batt = true) : IsWireFrame cfg k d (baseFrame cfg k d a val batt) := by
  have hlens : candLens k = [9, 10] := by cases k <;> first | rfl | exact absurd rfl hk
  have hlen : (baseFrame cfg k d a val batt).length = 9 + batt.toList.length := by
    simp [baseFrame, frame_length, Addr.toList]
    omega
  refine ⟨rfl, ?_, ?_, ?_⟩
  · rw [hlens, hlen]
    cases batt <;> simp
  · have := frame_endsAt cfg.chk (typeCode cfg.tc k d) (a.toList ++ val :: batt.toList)
    rwa [← frame_length cfg.chk (typeCode cfg.tc k d)] at this
  · intro n hn hlt
    rw [hlens] at hn
    cases batt with
    | none => simp_all; omega
    | some b =>
      have h9 : n = 9 := by
        simp at hn hlen
        omega
      simpa [h9, noCollision] using h

theorem IsWireFrame.of_idFrame {cfg : Config} {d : Direction} {p : List Byte} (hp : p.length = 4) :
    IsWireFrame cfg .id d (frame cfg.chk (typeCode cfg.tc .id d) p) where
  type := rfl
  len := by simp [frame_length, hp, candLens]
  ends := by
    rw [frame_length]
    exact frame_endsAt _ _ _
  first := by
    intro n hn hlt
    rw [frame_length, hp] at hlt
    simp only [candLens, List.mem_singleton] at hn
    omega

/-- A well-formed wire instruction is one frame (R81, R291). -/
theorem isWireFrame_of_frameParts {cfg : Config} {i : Instr} {k : MsgClass} {d : Direction} {fb : List Byte}
    (h : frameParts cfg i = some (k, d, fb)) (hwf : wellFormed cfg i = true) : IsWireFrame cfg k d fb := by
  cases i with
  | idReq | idResp => cases h; exact .of_idFrame rfl
  | reqReq | reqResp | wdReq | wdResp | dataReq | dataResp => cases h; exact .of_baseFrame (by decide) hwf
  | _ => cases h

/-- A wire instruction is the arrival of its bytes (R96). -/
theorem exec_of_frameParts {s : State} {i : Instr} {k : MsgClass} {d : Direction} {fb : List Byte}
    (h : frameParts s.cfg i = some (k, d, fb)) : exec i s = .next (receiveBytes fb s) := by
  cases i with
  | idReq | idResp | reqReq | reqResp | wdReq | wdResp | dataReq | dataResp => cases h; rfl
  | _ => cases h

/-- Whether a candidate validates depends on its own bytes only (R199). -/
theorem validAt_congr (c : Checksum) {xs ys : List Byte} {n : Nat} (hn : 3 ≤ n) (h : xs.take n = ys.take n) :
    validAt c xs n = validAt c ys n := by
  have hget (p : Nat) (hp : p < n) : xs.getD p 0 = ys.getD p 0 := by
    have := congrArg (fun l => l[p]?.getD 0) h
    simpa [List.getElem?_take_of_lt hp] using this
  have htake : xs.take (n - 3) = ys.take (n - 3) := by
    have := congrArg (List.take (n - 3)) h
    simpa [List.take_take, Nat.min_eq_left (Nat.sub_le n 3)] using this
  unfold validAt
  rw [htake, hget (n - 3) (by omega), hget (n - 2) (by omega)]

theorem endsAt_iff {c : Checksum} {bs : List Byte} {n : Nat} :
    endsAt c bs n = true ↔ n ≤ bs.length ∧ bs.getD (n - 1) 0 = DELIM ∧ validAt c bs n = true := by
  simp [endsAt, and_assoc]

/-! ### The scan, one byte at a time (R195, R196) -/

theorem take_succ_eq_append_getD {fb : List Byte} {n : Nat} (hn : n < fb.length) :
    fb.take (n + 1) = fb.take n ++ [fb.getD n 0] := by
  rw [List.take_succ_eq_append_getElem hn, List.getD_eq_getElem _ _ hn]

theorem receiveBytes_append (xs ys : List Byte) (s : State) :
    receiveBytes (xs ++ ys) s = receiveBytes ys (receiveBytes xs s) := List.foldl_append

theorem receiveBytes_singleton (b : Byte) (s : State) : receiveBytes [b] s = rxByteStep b s := rfl

/-- The receiver is no concern of arbitration or of IRQ (R233). -/
theorem Settled.setFrx {s : State} (h : Settled s) (f : Receiver) : Settled (s.setFrx f) := ⟨h.arbitrated, h.irq⟩

/-- The bytes held after one more is stored. -/
theorem take_toList_setIfInBounds {rb : Vector Byte 10} {fb : List Byte} {n : Nat} (h : rb.toList.take n = fb.take n)
    (hn : n < fb.length) (h10 : n < 10) :
    (rb.setIfInBounds n (fb.getD n 0)).toList.take (n + 1) = fb.take (n + 1) := by
  have hlen : n < (rb.toList.set n (fb.getD n 0)).length := by simpa using h10
  rw [Vector.toList_setIfInBounds, List.take_succ_eq_append_getElem hlen, List.take_succ_eq_append_getElem hn,
    List.take_set_of_le le_rfl, h, List.getElem_set_self, List.getD_eq_getElem _ _ hn]

/-- A type code at an idle receiver starts its frame; nothing else changes (R195). -/
theorem rxByteStep_of_type {s : State} (hs : Settled s) (hon : s.host.ctrl.rxEn = true) (hx : s.frx.rxs = .idle)
    (k : MsgClass) (d : Direction) :
    rxByteStep (typeCode s.cfg.tc k d) s =
      s.setFrx ⟨.collect, s.frx.rb.setIfInBounds 0 (typeCode s.cfg.tc k d), 1, k, d, false⟩ := by
  have hstart : receiveByte (typeCode s.cfg.tc k d) s =
      s.setFrx ⟨.collect, s.frx.rb.setIfInBounds 0 (typeCode s.cfg.tc k d), 1, k, d, false⟩ := by
    simp only [receiveByte, hon, hx, startFrame, if_neg (typeCode_ne_delim s.cfg.tc k d), classify_typeCode, if_true]
  rw [rxByteStep, hstart, endOfStep_of_settled (hs.setFrx _)]

/-- A byte inside a frame is collected (R194). -/
theorem rxByteStep_of_collect {s : State} (hx : s.frx.rxs = .collect) (hon : s.host.ctrl.rxEn = true) (b : Byte) :
    rxByteStep b s = endOfStep (collectByte b s) := by
  simp only [rxByteStep, receiveByte, hon, hx, if_true]

/-- A delimiter that ends a valid candidate delivers it (R196, R200). -/
theorem collectByte_of_ends {s : State} {b : Byte} (hb : b = DELIM) (hn : s.frx.rn + 1 ∈ candLens s.frx.rk)
    (hv : validAt s.cfg.chk (s.frx.rb.setIfInBounds s.frx.rn b).toList (s.frx.rn + 1) = true) :
    collectByte b s =
      deliver (s.frx.rn + 1)
        (s.setFrx { s.frx with rb := s.frx.rb.setIfInBounds s.frx.rn b, rxs := .idle, rn := 0, rsd := false }) := by
  have hcand : (b == DELIM && (candLens s.frx.rk).contains (s.frx.rn + 1)) = true := by
    simpa [hb] using hn
  unfold collectByte
  simp only [hcand, hv, Bool.and_self, if_true]

section Scan
variable {s : State} {k : MsgClass} {d : Direction} {fb : List Byte}

/-- The bytes of a frame before its last are stored, and nothing but the receiver changes (R196). -/
theorem receiveBytes_take (hs : Settled s) (hon : s.host.ctrl.rxEn = true) (hx : s.frx.rxs = .idle)
    (hf : IsWireFrame s.cfg k d fb) {n : Nat} (h1 : 1 ≤ n) (hn : n < fb.length) :
    ∃ rb r, rb.toList.take n = fb.take n ∧ receiveBytes (fb.take n) s = s.setFrx ⟨.collect, rb, n, k, d, r⟩ := by
  obtain ⟨hlo, hhi⟩ := candLens_range hf.len
  have hmax := maxLen_le k
  induction n, h1 using Nat.le_induction with
  | base =>
    have htake : fb.take 1 = [typeCode s.cfg.tc k d] := by
      rw [← hf.type]
      cases fb with
      | nil => simp at hn
      | cons b bs => rfl
    rw [htake]
    refine ⟨_, _, ?_, rxByteStep_of_type hs hon hx k d⟩
    rw [← htake, ← hf.type]
    exact take_toList_setIfInBounds (n := 0) rfl (by omega) (by omega)
  | succ n h1 ih =>
    obtain ⟨rb, r, htake, hrecv⟩ := ih (by omega)
    have htake' := take_toList_setIfInBounds htake (by omega) (by omega)
    obtain ⟨r', hstored⟩ : ∃ r', collectByte (fb.getD n 0) (s.setFrx ⟨.collect, rb, n, k, d, r⟩) =
        s.setFrx ⟨.collect, rb.setIfInBounds n (fb.getD n 0), n + 1, k, d, r'⟩ := by
      have hlt : n + 1 ≠ maxLen k := by omega
      rcases collectByte_cases (fb.getD n 0) (s.setFrx ⟨.collect, rb, n, k, d, r⟩) with
        ⟨hcand, hv, -⟩ | ⟨hm, -⟩ | ⟨hm, -⟩ | ⟨hm, -⟩ | ⟨-, he⟩
      · simp only [State.setFrx_frx, State.setFrx_cfg, Bool.and_eq_true, beq_iff_eq, List.contains_iff_mem] at hcand hv
        obtain ⟨hb, hmem⟩ := hcand
        have hlo' := (candLens_range hmem).1
        rw [validAt_congr _ (by omega) htake'] at hv
        have hends : endsAt s.cfg.chk fb (n + 1) = true := endsAt_iff.mpr ⟨hn.le, hb, hv⟩
        simp [hf.first _ hmem hn] at hends
      · exact absurd hm hlt
      · exact absurd hm hlt
      · exact absurd hm hlt
      · exact ⟨_, he⟩
    refine ⟨_, r', htake', ?_⟩
    rw [take_succ_eq_append_getD (by omega), receiveBytes_append, hrecv, receiveBytes_singleton,
      rxByteStep_of_collect rfl (by simpa using hon), hstored, endOfStep_of_settled (hs.setFrx _)]

/-- A frame is dispatched in the step of its last byte, and its other bytes change nothing but the receiver (R200). -/
theorem receiveBytes_frame (hs : Settled s) (hon : s.host.ctrl.rxEn = true) (hx : s.frx.rxs = .idle)
    (hf : IsWireFrame s.cfg k d fb) :
    ∃ rb : Vector Byte 10, rb.toList.take fb.length = fb ∧
      receiveBytes fb s = endOfStep (dispatchFrame fb k d (s.setFrx ⟨.idle, rb, 0, k, d, false⟩)) := by
  obtain ⟨hlo, hhi⟩ := candLens_range hf.len
  have hmax := maxLen_le k
  obtain ⟨n, hn⟩ : ∃ n, fb.length = n + 1 := ⟨fb.length - 1, by omega⟩
  obtain ⟨rb, r, htake, hrecv⟩ := receiveBytes_take hs hon hx hf (n := n) (by omega) (by omega)
  have htake' := take_toList_setIfInBounds htake (by omega) (by omega)
  have hwhole : fb.take (n + 1) = fb := List.take_of_length_le hn.le
  have hends := hf.ends
  rw [hn] at hends
  obtain ⟨-, hb, hv⟩ := endsAt_iff.mp hends
  rw [Nat.add_sub_cancel] at hb
  have hmem : n + 1 ∈ candLens k := hn ▸ hf.len
  rw [← validAt_congr _ (by omega) htake'] at hv
  refine ⟨rb.setIfInBounds n (fb.getD n 0), by rw [hn, htake', hwhole], ?_⟩
  have hlast : collectByte (fb.getD n 0) (s.setFrx ⟨.collect, rb, n, k, d, r⟩) =
      dispatchFrame fb k d (s.setFrx ⟨.idle, rb.setIfInBounds n (fb.getD n 0), 0, k, d, false⟩) := by
    rw [collectByte_of_ends (s := s.setFrx ⟨.collect, rb, n, k, d, r⟩) hb hmem hv, deliver]
    simp only [State.setFrx_frx, htake', hwhole]
    rfl
  calc receiveBytes fb s
      = rxByteStep (fb.getD n 0) (s.setFrx ⟨.collect, rb, n, k, d, r⟩) := by
        rw [← hrecv, ← receiveBytes_singleton, ← receiveBytes_append, ← take_succ_eq_append_getD (by omega), hwhole]
    _ = endOfStep (dispatchFrame fb k d (s.setFrx ⟨.idle, rb.setIfInBounds n (fb.getD n 0), 0, k, d, false⟩)) := by
        rw [rxByteStep_of_collect rfl (by simpa using hon), hlast]

end Scan

/-! ### What the host gets (R36, R200, R201) -/

/-- The host registers after a frame's dispatch, before the sequencer sees it: the copy, or the overrun (R200, R201). -/
def deliveredHost (fb : List Byte) (k : MsgClass) (d : Direction) (h : HostRegs) : HostRegs :=
  if h.rxfValid then { h with rxOvr := true, intstat := raiseInt .err h.intstat } else holdFrame fb k d h

theorem dispatchFrame_eq (fb : List Byte) (k : MsgClass) (d : Direction) (s : State) :
    dispatchFrame fb k d s = matchResponse k d fb (s.setHost (deliveredHost fb k d s.host)) := by
  unfold deliveredHost
  rcases dispatchFrame_cases fb k d s with ⟨hv, h⟩ | ⟨hv, h⟩
  · rw [h, if_pos hv]
    rfl
  · rw [h, hv]
    rfl

@[simp] theorem dispatchFrame_frx (fb : List Byte) (k : MsgClass) (d : Direction) (s : State) :
    (dispatchFrame fb k d s).frx = s.frx := by simp [dispatchFrame_eq]

@[simp] theorem dispatchFrame_table (fb : List Byte) (k : MsgClass) (d : Direction) (s : State) :
    (dispatchFrame fb k d s).table = s.table := by simp [dispatchFrame_eq]

section Delivered
variable (fb : List Byte) (k : MsgClass) (d : Direction) (h : HostRegs)

@[simp] theorem deliveredHost_addr : (deliveredHost fb k d h).addr = h.addr := by
  unfold deliveredHost
  split <;> rfl

@[simp] theorem deliveredHost_ctrl : (deliveredHost fb k d h).ctrl = h.ctrl := by
  unfold deliveredHost
  split <;> rfl

@[simp] theorem deliveredHost_cnt : (deliveredHost fb k d h).cnt = h.cnt := by
  unfold deliveredHost
  split <;> rfl

/-- A frame's dispatch raises RXF or ERR, none of the sequencer's bits (R200, R201). -/
theorem deliveredHost_intstat {j : Nat} (hlo : 1 ≤ j) (hhi : j ≤ 4) :
    (deliveredHost fb k d h).intstat.getLsbD j = h.intstat.getLsbD j := by
  unfold deliveredHost
  split
  · exact raiseInt_getLsbD_of_ne (by simp only [IntSource.bit]; omega) _
  · exact raiseInt_getLsbD_of_ne (by simp only [IntSource.bit]; omega) _

/-- Lane `i` of the holding register's word `j` is byte `4j + i` of the frame (R36). -/
theorem rxbufWord_lane (j : Nat) {i : Nat} (hi : i < 4) :
    (rxbufWord fb j).extractLsb' (8 * i) 8 = fb.getD (4 * j + i) 0 := by
  have hlane := lane_packLanes (fb.getD (4 * j) 0) (fb.getD (4 * j + 1) 0) (fb.getD (4 * j + 2) 0) (fb.getD (4 * j + 3) 0) i hi
  rw [rxbufWord, ← lane, hlane]
  obtain rfl | rfl | rfl | rfl : i = 0 ∨ i = 1 ∨ i = 2 ∨ i = 3 := by omega
  all_goals rfl

/-- The frame in the holding register, byte by byte (R36). -/
theorem holdFrame_lanes {i : Nat} (hi : i < 4) :
    (holdFrame fb k d h).rxbuf0.extractLsb' (8 * i) 8 = fb.getD i 0 ∧
    (holdFrame fb k d h).rxbuf1.extractLsb' (8 * i) 8 = fb.getD (4 + i) 0 ∧
    (holdFrame fb k d h).rxbuf2.extractLsb' (8 * i) 8 = fb.getD (8 + i) 0 := by
  have h0 := rxbufWord_lane fb 0 hi
  rw [Nat.mul_zero, Nat.zero_add] at h0
  exact ⟨h0, rxbufWord_lane fb 1 hi, rxbufWord_lane fb 2 hi⟩

end Delivered

/-- Response matching moves no interrupt bit but ASSIGNED and ACK (R119, R120). -/
theorem matchResponse_intstat (k : MsgClass) (d : Direction) (fb : List Byte) (s : State) {j : Nat} (h1 : j ≠ 1)
    (h4 : j ≠ 4) : (matchResponse k d fb s).host.intstat.getLsbD j = s.host.intstat.getLsbD j := by
  rcases matchResponse_cases k d fb s with h | ⟨-, -, -, -, ⟨-, ha, hu, h⟩ | ⟨-, -, h⟩⟩
  · rw [h]
  · rw [h, acceptIdentification_eq ⟨ha, hu⟩]
    exact raiseInt_getLsbD_of_ne h1 _
  · rw [h, State.raise_host_intstat, endTxn_host]
    exact raiseInt_getLsbD_of_ne h4 _

/-- A frame that finds the holding register free is copied to it (R200). -/
theorem copiedToHost_dispatchFrame {s : State} (fb : List Byte) (k : MsgClass) (d : Direction) (f : Receiver)
    (hfree : s.host.rxfValid = false) : CopiedToHost fb k d s (endOfStep (dispatchFrame fb k d (s.setFrx f))) := by
  have hdel : deliveredHost fb k d s.host = holdFrame fb k d s.host := by simp [deliveredHost, hfree]
  rw [CopiedToHost, endOfStep_host, dispatchFrame_eq, State.setFrx_host, hdel]
  have hhost := matchResponse_host k d fb ((s.setFrx f).setHost (holdFrame fb k d s.host))
  refine ⟨?_, fun j hj => ?_, ?_, fun j h0 h1 h4 => ?_⟩
  · rw [hhost]
    simp [holdFrame, Bool.beq_eq_decide_eq]
  · rw [hhost]
    exact holdFrame_lanes fb k d s.host hj
  · rw [matchResponse_intstat k d fb _ (by decide) (by decide)]
    simp [holdFrame, raiseInt_getLsbD, IntSource.bit]
  · rw [matchResponse_intstat k d fb _ h1 h4]
    exact raiseInt_getLsbD_of_ne h0 _

/-- Settles O14: the frame of a wire instruction is received byte by byte and dispatched with its last byte. -/
theorem frameDispatchedAtLastByte : Obligations.FrameDispatchedAtLastByte := by
  intro s i k d fb hs hon hx hparts hwf
  obtain ⟨rb, hrb, hrecv⟩ := receiveBytes_frame hs hon hx (isWireFrame_of_frameParts hparts hwf)
  refine ⟨rb, hrb, ?_, by simp, by simp, fun hfree => copiedToHost_dispatchFrame fb k d _ hfree⟩
  rw [exec_of_frameParts hparts, hrecv]
  rfl

/-! ### Frames without an effect on the sequencer (R119) -/

/-- The block after a whole frame, before the sequencer sees it: the receiver idle again, the host's registers delivered to. -/
def delivered (fb : List Byte) (k : MsgClass) (d : Direction) (rb : Vector Byte 10) (s : State) : State :=
  { s with frx := ⟨.idle, rb, 0, k, d, false⟩, host := deliveredHost fb k d s.host }

section Frame
variable {s : State} {i : Instr} {k : MsgClass} {d : Direction} {fb : List Byte}

/-- A wire instruction delivers its frame, lets the sequencer match it, and ends the step (R200). -/
theorem exec_frame (hs : Settled s) (hon : s.host.ctrl.rxEn = true) (hx : s.frx.rxs = .idle)
    (hparts : frameParts s.cfg i = some (k, d, fb)) (hwf : wellFormed s.cfg i = true) :
    ∃ rb, exec i s = .next (endOfStep (matchResponse k d fb (delivered fb k d rb s))) := by
  obtain ⟨rb, -, hrecv⟩ := receiveBytes_frame hs hon hx (isWireFrame_of_frameParts hparts hwf)
  refine ⟨rb, ?_⟩
  rw [exec_of_frameParts hparts, hrecv, dispatchFrame_eq]
  rfl

/-- A frame that does not match has no effect but its delivery, and IRQ's (R119, R233). -/
theorem endOfStep_of_not_matched (hs : Settled s) {rb : Vector Byte 10}
    (hno : matchResponse k d fb (delivered fb k d rb s) = delivered fb k d rb s) :
    endOfStep (matchResponse k d fb (delivered fb k d rb s)) =
      { delivered fb k d rb s with out := { s.out with irq := irqLevel (deliveredHost fb k d s.host) } } := by
  have hq : Quiet (delivered fb k d rb s) := hs.quiet.of_eq (by simp [delivered]) rfl
  rw [hno, endOfStep_of_quiet hq]
  rfl

/-- A frame matches no transaction where it is a request, no transaction of its class is live and sent, or another device's
address stands in it (R119). -/
theorem matchResponse_of_no_match {t : State}
    (h : d = .request ∨ (t.txn k).active = false ∨ (t.txn k).sent = false ∨ (k ≠ .id ∧ frameAddr fb ≠ t.host.addr)) :
    matchResponse k d fb t = t := by
  rcases matchResponse_cases k d fb t with he | ⟨-, hd, ha, hsent, hcase⟩
  · exact he
  · rcases hcase with ⟨rfl, -⟩ | ⟨-, haddr, -⟩
    · simp [hd, ha, hsent] at h
    · simp [hd, ha, hsent, haddr] at h

end Frame

/-- Settles O15: a request never matches, and the holding register is free. -/
theorem requestFrameReachesHost : Obligations.RequestFrameReachesHost := by
  intro s i k fb hs hon hx hfree hparts hwf
  obtain ⟨rb, he⟩ := exec_frame hs hon hx hparts hwf
  have hdel : deliveredHost fb k .request s.host = holdFrame fb k .request s.host := by simp [deliveredHost, hfree]
  rw [endOfStep_of_not_matched hs (by simp [matchResponse]), delivered, hdel] at he
  refine ⟨_, he, ?_, fun j hj => holdFrame_lanes fb k .request s.host hj, rfl, rfl, rfl, rfl, rfl, rfl, rfl, rfl, rfl, rfl⟩
  simp only [holdFrame, Bool.beq_eq_decide_eq]
  rfl

/-- Settles O25: none of these frames matches. -/
theorem otherResponsesHaveNoSequencerEffect : Obligations.OtherResponsesHaveNoSequencerEffect := by
  intro s i k d fb hs hon hx hparts hwf hcond
  obtain ⟨rb, he⟩ := exec_frame hs hon hx hparts hwf
  have haddr : [fb.getD 1 0, fb.getD 2 0, fb.getD 3 0, fb.getD 4 0] ≠ s.host.addr.toList → frameAddr fb ≠ s.host.addr :=
    mt (congrArg Addr.toList)
  have hno : matchResponse k d fb (delivered fb k d rb s) = delivered fb k d rb s := by
    refine matchResponse_of_no_match (hcond.imp_right (.imp_right (.imp_right fun hother => ⟨hother.1, ?_⟩)))
    simpa [delivered] using haddr hother.2
  rw [endOfStep_of_not_matched hs hno] at he
  exact ⟨_, he, rfl, deliveredHost_addr .., deliveredHost_ctrl .., fun j hlo hhi => deliveredHost_intstat fb k d s.host hlo hhi,
    rfl, rfl⟩

/-! ### The identification response (R120) -/

/-- A class with nothing due is passed over by arbitration: its transaction and its hold on the slot stay (R114). -/
theorem arbitrate_of_not_pend {s : State} {c : MsgClass} (hp : (s.txn c).pend = false) :
    (arbitrate s).txn c = s.txn c ∧ (HasSlot (arbitrate s) c ↔ HasSlot s c) := by
  rcases arbitrate_cases s with ⟨he, -⟩ | ⟨k, -, hfree, hsend, he⟩
  · simp [he]
  · have hck : c ≠ k := by
      rintro rfl
      simp [State.sendable, hp] at hsend
    simp [he, grant_txn, hck, HasSlot, hfree, Ne.symm hck]

/-- Arbitration leaves the period counters alone (R114). -/
theorem arbitrate_pcnt (s : State) (c : MsgClass) : ((arbitrate s).txn c).pcnt = (s.txn c).pcnt := by
  rcases arbitrate_cases s with ⟨he, -⟩ | ⟨k, -, -, -, he⟩
  · rw [he]
  · rw [he, grant_txn]
    split
    · next hk => rw [hk]
    · rfl

/-- A response to the identification request in flight, or waiting, is AcceptIdentification's to judge (R119). -/
theorem matchResponse_id {s : State} (fb : List Byte) (hon : s.host.ctrl.seqEn = true) (ha : (s.txn .id).active = true)
    (hsent : (s.txn .id).sent = true) :
    matchResponse .id .response fb s = acceptIdentification (frameAddr fb) s := by
  simp [matchResponse, hon, ha, hsent]

/-- What an accepted identification leaves at the end of the step (R120, R131). -/
theorem endOfStep_acceptIdentification {a : Addr} {u : State} (hst : u.seq.astate = .requested)
    (hne : a ≠ u.cfg.unassigned) :
    let t := endOfStep (acceptIdentification a u)
    t.host = { u.host with addr := a, intstat := raiseInt .assigned u.host.intstat } ∧ t.seq.astate = .assigned ∧
    t.out.nvlog = u.out.nvlog ++ [a] ∧
    t.txn .id = { u.txn .id with active := false, pend := false, sent := false, elap := 0 } ∧ ¬ HasSlot t .id ∧
    (t.txn .req).pcnt = 0 ∧ (t.txn .wd).pcnt = 0 ∧ t.table = u.table := by
  have hv := acceptIdentification_eq ⟨hst, hne⟩
  have hid : (acceptIdentification a u).txn .id =
      { u.txn .id with active := false, pend := false, sent := false, elap := 0 } := by rw [hv]; rfl
  obtain ⟨harb, hslot⟩ := arbitrate_of_not_pend (c := .id) (by rw [hid])
  refine ⟨by rw [endOfStep_host, hv], ?_, by rw [endOfStep_nvlog, hv], ?_, ?_, ?_, ?_, by rw [endOfStep_table, hv]⟩
  · rw [endOfStep_seq, arbitrate_astate, hv]
  · rw [endOfStep_txn, harb, hid]
  · have : HasSlot (endOfStep (acceptIdentification a u)) .id ↔ HasSlot (arbitrate (acceptIdentification a u)) .id := Iff.rfl
    rw [this, hslot, hv]
    simp [HasSlot]
  · rw [endOfStep_txn, arbitrate_pcnt, hv]
    rfl
  · rw [endOfStep_txn, arbitrate_pcnt, hv]
    rfl

/-- Settles O24: the response matches, and is accepted unless it carries the unassigned address. -/
theorem identificationResponse : Obligations.IdentificationResponse := by
  intro s a hs hrx hx hon hst hact hsent
  obtain ⟨rb, he⟩ := exec_frame (i := .idResp a) hs hrx hx rfl rfl
  have hm : matchResponse .id .response (idRespFrame s.cfg a) (delivered (idRespFrame s.cfg a) .id .response rb s) =
      acceptIdentification a (delivered (idRespFrame s.cfg a) .id .response rb s) :=
    matchResponse_id _ (by simpa [delivered] using hon) hact hsent
  constructor
  · intro hne
    rw [hm] at he
    obtain ⟨hhost, hst', hnv, hid, hslot, hreq, hwd, htable⟩ := endOfStep_acceptIdentification
      (u := delivered (idRespFrame s.cfg a) .id .response rb s) hst hne
    refine ⟨_, he, by rw [hhost], hst', hnv, ?_, fun j hlo hhi => ?_, by rw [hid], by rw [hid], by rw [hid], by rw [hid],
      fun hinfl hscls => hslot ⟨hinfl, hscls⟩, hreq, hwd, htable, ?_⟩
    · rw [hhost]
      simp [raiseInt_getLsbD, IntSource.bit]
    · rw [hhost]
      exact (raiseInt_getLsbD_of_ne (by simp only [IntSource.bit]; omega) _).trans
        (deliveredHost_intstat _ _ _ s.host (by omega) hhi)
    · rw [hhost]
      exact deliveredHost_cnt ..
  · intro heq
    have hno : acceptIdentification a (delivered (idRespFrame s.cfg a) .id .response rb s) =
        delivered (idRespFrame s.cfg a) .id .response rb s := by simp [acceptIdentification, heq, delivered]
    rw [endOfStep_of_not_matched hs (hm.trans hno)] at he
    exact ⟨_, he, rfl, deliveredHost_addr .., fun j hlo hhi => deliveredHost_intstat _ _ _ s.host hlo hhi, rfl, rfl⟩

end Sys2Proof.Machine

/-! SUPPORT. Where the fields of a register stand in the word it reads (spec/10_state.md §2, §3; spec/44_host_interface.md
R220). -/
namespace Sys2Proof.Machine
open Sys2Proof

/-! ### Fields of a word -/

/-- The field `f` stands at bit `i` of the word. -/
def FieldAt {n l : Nat} (w : BitVec n) (i : Nat) (f : BitVec l) : Prop := w.extractLsb' i l = f

namespace FieldAt
variable {m n l i j : Nat}

theorem bit {w : BitVec n} {b : Bool} (h : FieldAt w i (BitVec.ofBool b)) : w.getLsbD i = b := by
  have h0 := congrArg (fun v => v.getLsbD 0) h
  simpa using h0

/-- A field of a field. -/
theorem within {k : Nat} {w : BitVec n} {f : BitVec l} {g : BitVec k} (h : FieldAt w i f) (hg : FieldAt f j g)
    (hk : j + k ≤ l) : FieldAt w (i + j) g := by
  unfold FieldAt at *
  subst h hg
  ext p hp
  simp [show j + p < l by omega, Nat.add_assoc]

theorem whole (x : BitVec n) : FieldAt x 0 x := BitVec.extractLsb'_eq_self

/-- The low part of a concatenation stands at bit 0. -/
theorem low {x : BitVec m} {y : BitVec n} : FieldAt (x ++ y) 0 y := by
  rw [FieldAt, BitVec.extractLsb'_append_eq_of_add_le (Nat.zero_add n).le, BitVec.extractLsb'_eq_self]

/-- A field of the high part of a concatenation stands behind the low part. -/
theorem high {x : BitVec m} {y : BitVec n} {f : BitVec l} (h : FieldAt x i f) : FieldAt (x ++ y) (n + i) f := by
  rw [FieldAt, BitVec.extractLsb'_append_eq_of_le (Nat.le_add_right n i), Nat.add_sub_cancel_left]
  exact h

/-- A word widened with zeros holds it at bit 0. -/
theorem setWidth (x : BitVec m) (h : m ≤ n) : FieldAt (x.setWidth n) 0 x := by
  unfold FieldAt
  ext p hp
  simp [show p < n by omega, BitVec.getLsbD_eq_getElem hp]

/-- Behind the word a widened one is zero. -/
theorem setWidth_above (x : BitVec m) (h : m ≤ i) : FieldAt (x.setWidth n) i (0 : BitVec l) := by
  unfold FieldAt
  ext p hp
  simp [BitVec.getLsbD_of_ge x (i + p) (by omega)]

end FieldAt

open FieldAt

/-! ### The status registers (R25, R35, R40, R41) -/

/-- The bit of class `c` in a PEND or ACTIVE field is bit `c` (R10, R25). -/
theorem classBits_fieldAt (p : MsgClass → Bool) (c : MsgClass) :
    FieldAt (classBits p) c.toBits.toNat (BitVec.ofBool (p c)) := by
  cases c with
  | id => exact low
  | req => exact high low
  | wd => exact high (high low)
  | data => exact high (high (high (whole _)))

/-- The fields of STATUS (R25). -/
theorem statusWord_fields (s : State) :
    FieldAt (statusWord s) 0 s.seq.astate.toBits ∧ FieldAt (statusWord s) 2 (BitVec.ofBool s.seq.infl) ∧
    FieldAt (statusWord s) 3 (if s.seq.infl then s.seq.scls.toBits else 0) ∧
    FieldAt (statusWord s) 5 (BitVec.ofBool s.host.rxfValid) ∧ FieldAt (statusWord s) 6 (BitVec.ofBool s.host.rxOvr) ∧
    FieldAt (statusWord s) 7 s.frx.rxs.toBits ∧
    FieldAt (statusWord s) 9 (classBits fun c => (s.txn c).pend) ∧
    FieldAt (statusWord s) 13 (classBits fun c => (s.txn c).active) ∧
    FieldAt (statusWord s) 17 (BitVec.ofBool s.host.cmdErr) ∧ FieldAt (statusWord s) 18 (0 : BitVec 14) :=
  ⟨low, high low, high (high low), high (high (high low)), high (high (high (high low))),
    high (high (high (high (high low)))), high (high (high (high (high (high low))))),
    high (high (high (high (high (high (high low)))))), high (high (high (high (high (high (high (high low))))))),
    high (high (high (high (high (high (high (high (high (whole _)))))))))⟩

/-- The fields of RXINFO (R35). -/
theorem rxInfo_toWord_fields (i : RxInfo) :
    FieldAt i.toWord 0 i.len ∧ FieldAt i.toWord 4 i.kind.toBits ∧ FieldAt i.toWord 6 (BitVec.ofBool i.dir.toBool) ∧
    FieldAt i.toWord 7 (BitVec.ofBool i.hasBatt) ∧ FieldAt i.toWord 8 (0 : BitVec 24) :=
  ⟨low, high low, high (high low), high (high (high low)), high (high (high (high (whole _))))⟩

theorem toBool_eq_true_iff (d : Direction) : d.toBool = true ↔ d = .response := by
  cases d <;> simp [Direction.toBool]

/-- Settles O45: the fields of STATUS, RXINFO and INTSTAT, each where its rule puts it. -/
theorem statusBits : Obligations.StatusBits := by
  intro s
  obtain ⟨hast, hinfl, hscls, hvalid, hovr, hrxs, hpend, hact, hcmd, hzero⟩ := statusWord_fields s
  obtain ⟨hlen, hkind, hdir, hbatt, hrest⟩ := rxInfo_toWord_fields s.host.rxinfo
  have hclass (c : MsgClass) : c.toBits.toNat + 1 ≤ 4 := c.toBits.isLt
  refine ⟨⟨?_, hinfl.bit, hscls, hvalid.bit, hovr.bit, ?_, fun c => ⟨?_, ?_⟩, hcmd.bit, hzero⟩,
    ⟨hlen, hkind, ?_, hbatt.bit, hrest⟩, ⟨setWidth _ (by decide), setWidth_above _ le_rfl⟩, rfl, fun _ => rfl, rfl, rfl, ?_⟩
  · exact hast.trans (by cases s.seq.astate <;> rfl)
  · exact hrxs.trans (by cases s.frx.rxs <;> rfl)
  · exact (hpend.within (classBits_fieldAt _ c) (hclass c)).bit
  · exact (hact.within (classBits_fieldAt _ c) (hclass c)).bit
  · rw [← toBool_eq_true_iff]
    exact hdir.bit ▸ Iff.rfl
  · simp [readReg, State.retry, Retry.toWord]

/-! ### The other registers (R24, R33, R38 to R40, R63) -/

/-- The fields of CTRL (R24). -/
theorem ctrl_toBits_fields (c : Ctrl) :
    FieldAt c.toBits 0 (BitVec.ofBool c.seqEn) ∧ FieldAt c.toBits 1 (BitVec.ofBool c.rxEn) ∧
    FieldAt c.toBits 2 (BitVec.ofBool c.battEn) ∧ FieldAt c.toBits 3 (BitVec.ofBool c.enReq) ∧
    FieldAt c.toBits 4 (BitVec.ofBool c.enWd) ∧ FieldAt c.toBits 5 (BitVec.ofBool c.enData) :=
  ⟨low, high low, high (high low), high (high (high low)), high (high (high (high low))),
    high (high (high (high (high (whole _)))))⟩

/-- The fields of TXCFG (R33). -/
theorem txCfg_toWord_fields (t : TxCfg) :
    FieldAt t.toWord 0 t.kind.toBits ∧ FieldAt t.toWord 2 (BitVec.ofBool t.dir.toBool) ∧
    FieldAt t.toWord 3 (BitVec.ofBool t.bp) ∧ FieldAt t.toWord 4 (0 : BitVec 4) ∧ FieldAt t.toWord 8 t.value ∧
    FieldAt t.toWord 16 t.batt ∧ FieldAt t.toWord 24 (0 : BitVec 8) :=
  ⟨low, high low, high (high low), high (high (high low)), high (high (high (high low))),
    high (high (high (high (high low)))), high (high (high (high (high (high (whole _))))))⟩

/-- The fields of RETRY (R40). -/
theorem retry_toWord_fields (r : Retry) :
    FieldAt r.toWord 0 r.rwin ∧ FieldAt r.toWord 16 (BitVec.ofBool r.ren) ∧ FieldAt r.toWord 17 (BitVec.ofBool r.rinf) ∧
    FieldAt r.toWord 18 (0 : BitVec 14) :=
  ⟨low, high low, high (high low), high (high (high (whole _)))⟩

theorem period_eq_table (s : State) {c : MsgClass} (h : c = .req ∨ c = .wd) : s.period c = (s.table.get c).period := by
  rcases h with rfl | rfl <;> rfl

theorem retry_eq_table (s : State) {c : MsgClass} (h : c ≠ .id) : s.retry c = (s.table.get c).retry := by
  cases c with
  | id => exact absurd rfl h
  | req | wd | data => rfl

/-- Settles O46: the bytes in lane order, the fields where their rules put them. -/
theorem byteLanes : Obligations.ByteLanes := by
  intro s
  obtain ⟨hseq, hrx, hbe, hreq, hwd, hdata⟩ := ctrl_toBits_fields s.host.ctrl
  obtain ⟨hkind, hdir, hbp, hzero, hval, hbatt, hrest⟩ := txCfg_toWord_fields s.host.txcfg
  have hctrl : FieldAt (readReg s .ctrl) 0 s.host.ctrl.toBits := setWidth _ (by decide)
  have hctrlBit {i : Nat} {b : Bool} (h : FieldAt s.host.ctrl.toBits i (BitVec.ofBool b)) (hi : i + 1 ≤ 6) :
      (readReg s .ctrl).getLsbD i = b := by
    have hbit := (hctrl.within h hi).bit
    rwa [Nat.zero_add] at hbit
  refine ⟨fun j hj => ⟨lane_packLanes _ _ _ _ j hj, lane_packLanes _ _ _ _ j hj, lane_packLanes _ _ _ _ j hj,
    lane_packLanes _ _ _ _ j hj, lane_packLanes _ _ _ _ j hj, ?_⟩,
    ⟨hctrlBit hseq (by decide), hctrlBit hrx (by decide), hctrlBit hbe (by decide), hctrlBit hreq (by decide),
      hctrlBit hwd (by decide), hctrlBit hdata (by decide), setWidth_above _ le_rfl⟩,
    ⟨hkind, ?_, hbp.bit, hzero, hval, hbatt, hrest⟩, fun c => ?_, fun c hc => ?_, fun c hc => ?_, ?_, rfl, rfl, rfl⟩
  · refine (lane_packLanes s.host.sval.value s.host.sval.batt 0 0 j hj).trans ?_
    obtain rfl | rfl | rfl | rfl : j = 0 ∨ j = 1 ∨ j = 2 ∨ j = 3 := by omega
    all_goals rfl
  · rw [← toBool_eq_true_iff]
    exact hdir.bit ▸ Iff.rfl
  · exact BitVec.toNat_setWidth_of_le (by decide)
  · rw [← period_eq_table s hc]
    exact BitVec.toNat_setWidth_of_le (by decide)
  · obtain ⟨hrwin, hren, hrinf, hhigh⟩ := retry_toWord_fields (s.retry c)
    rw [← retry_eq_table s hc]
    exact ⟨hrwin, hren.bit, hrinf.bit, hhigh⟩
  · exact BitVec.toNat_setWidth_of_le (by decide)

end Sys2Proof.Machine

/-! SUPPORT. The register window's decoding (spec/10_state.md R23, R37, R62) and what the events record
(spec/60_exceptions.md R251). -/
namespace Sys2Proof.Machine
open Sys2Proof

/-! ### Register accesses (R23, R37, R61, R62) -/

theorem accessReject_eq_none {off : Nat} (h4 : off % 4 = 0) (hlt : off < 0x100) : accessReject 32 off = none := by
  unfold accessReject
  rw [if_neg (by decide), if_neg (by omega), if_neg (by omega)]

/-- A read the interface has decodes to the register at its offset. -/
theorem decode_regRead (cfg : Config) {off : Nat} (h4 : off % 4 = 0) (hlt : off < 0x100) :
    decode cfg (.regRead 32 off) = .instr (.regRead (regAt off)) [] := by
  simp only [decode, accessReject_eq_none h4 hlt]

/-- A write the interface has decodes to the register at its offset, but at CMD (R92). -/
theorem decode_regWrite (cfg : Config) {off : Nat} (v : Word) (h4 : off % 4 = 0) (hlt : off < 0x100)
    (hcmd : regAt off ≠ .cmd) : decode cfg (.regWrite 32 off v) = .instr (.regWrite (regAt off) v) [] := by
  simp only [decode, accessReject_eq_none h4 hlt, if_neg hcmd]

/-- The offsets behind INTEN are reserved (R62). -/
theorem regAt_of_ge {off : Nat} (h : 0x88 ≤ off) : regAt off = .reserved (BitVec.ofNat 8 off) := by
  obtain ⟨q, hq⟩ : ∃ q, off / 4 = q + 34 := ⟨off / 4 - 34, by omega⟩
  simp only [regAt, hq]

/-- The offsets between the registers, and those behind the last, are reserved (R62). -/
theorem regAt_reserved {off : Nat} (h : off ∈ [0x3C, 0x4C, 0x5C, 0x6C, 0x7C] ∨ 0x88 ≤ off ∧ off ≤ 0xFC) :
    regAt off = .reserved (BitVec.ofNat 8 off) ∧ off < 0x100 := by
  rcases h with h | ⟨hlo, hhi⟩
  · have hall : ∀ o ∈ [0x3C, 0x4C, 0x5C, 0x6C, 0x7C], regAt o = .reserved (BitVec.ofNat 8 o) ∧ o < 0x100 := by decide
    exact hall off h
  · exact ⟨regAt_of_ge hlo, by omega⟩

/-- Settles O2: the sample words by evaluation, the register window by its map. -/
theorem sampleWordsDecode : Obligations.SampleWordsDecode := by
  refine ⟨by decide, by decide, by decide, by decide, by decide, fun cfg v => ⟨fun p hp => ?_, fun off h4 hoff => ?_⟩⟩
  · obtain ⟨h4, hlt, hreg⟩ : p.1 % 4 = 0 ∧ p.1 < 0x100 ∧ regAt p.1 = p.2 := by
      revert p
      decide
    rw [← hreg]
    exact ⟨decode_regRead cfg h4 hlt, decode_regWrite cfg v h4 hlt⟩
  · obtain ⟨hreg, hlt⟩ := regAt_reserved hoff
    rw [← hreg]
    exact ⟨decode_regRead cfg h4 hlt, decode_regWrite cfg v h4 hlt (by simp [hreg])⟩

/-! ### Events (R31, R251) -/

/-- A counter saturates at 255 (R31). -/
theorem satInc_byte (v : Byte) : satInc v = BitVec.ofNat 8 (min (v.toNat + 1) 255) := by
  apply BitVec.eq_of_toNat_eq
  rw [satInc_toNat, BitVec.toNat_ofNat]
  omega

/-- The interrupt bits of the events as masks of INTSTAT (R41). -/
theorem raiseInt_eq_or (v : BitVec 6) :
    raiseInt .err v = v ||| 0x20 ∧ raiseInt .txnFail v = v ||| 0x08 ∧ raiseInt .idFail v = v ||| 0x04 := ⟨rfl, rfl, rfl⟩

/-- Settles O59: event by event, its counter or flag and its interrupt bit. -/
theorem eventsRecord : Obligations.EventsRecord := by
  intro s
  simp only [← satInc_byte]
  obtain ⟨herr, htxn, hid⟩ := raiseInt_eq_or s.host.intstat
  rw [← herr, ← htxn, ← hid]
  exact ⟨rfl, rfl, rfl, rfl, rfl, rfl, rfl⟩

end Sys2Proof.Machine

/-! SUPPORT. What an event puts on the wire and what the host sees of its accesses (spec/20_memory.md R61, R66, R69): the
output streams, operation by operation; the frames of one event; and which inputs are refused.
-/
namespace Sys2Proof.Machine
open Sys2Proof

/-! ### The output streams: transactions and the clocks of a Tick -/

@[simp] theorem newTxn_out (c : MsgClass) (s : State) : (newTxn c s).out = s.out := by simp [newTxn_eq]

@[simp] theorem endTxn_out (c : MsgClass) (s : State) : (endTxn c s).out = s.out := by simp [endTxn_eq]

@[simp] theorem clearPcnt_out (c : MsgClass) (s : State) : (clearPcnt c s).out = s.out := rfl

@[simp] theorem cancelAll_out (s : State) : (cancelAll s).out = s.out := by simp [cancelAll_eq]

@[simp] theorem cadence_out (c : MsgClass) (s : State) : (cadence c s).out = s.out := by
  rcases cadence_cases c s with ⟨h, -⟩ | ⟨-, -, -, ⟨-, h⟩ | ⟨-, h⟩⟩ <;> simp [h]

@[simp] theorem elapsedStep_out (s : State) : (elapsedStep s).out = s.out := by simp [elapsedStep_eq]

@[simp] theorem expire_out (c : MsgClass) (s : State) : (expire c s).out = s.out := by
  rcases expire_cases c s with ⟨-, h⟩ | ⟨-, -, h⟩ | ⟨-, -, h⟩ <;> simp [h]

@[simp] theorem waitStep_out (s : State) : (waitStep s).out = s.out := by
  unfold waitStep
  split
  · dsimp only
    split <;> simp
  · rfl

@[simp] theorem tickWork_out (s : State) : (tickWork s).out = s.out := by simp [tickWork, cadenceStep]

/-! ### TXLOG: the receiver, UNASSIGN and Reset

An accepted identification and UNASSIGN write the address out (R120, R123), so it is TXLOG alone that stays. -/

@[simp] theorem unassignWork_txlog (s : State) : (unassignWork s).out.txlog = s.out.txlog := by simp [unassignWork]

@[simp] theorem resetWork_txlog (nv : Addr) (s : State) : (resetWork nv s).out.txlog = s.out.txlog := rfl

@[simp] theorem matchResponse_txlog (k : MsgClass) (d : Direction) (fb : List Byte) (s : State) :
    (matchResponse k d fb s).out.txlog = s.out.txlog := by
  rcases matchResponse_cases k d fb s with h | ⟨-, -, -, -, ⟨-, ha, hu, h⟩ | ⟨-, -, h⟩⟩
  · rw [h]
  · rw [h, acceptIdentification_eq ⟨ha, hu⟩]
  · simp [h]

@[simp] theorem dispatchFrame_txlog (fb : List Byte) (k : MsgClass) (d : Direction) (s : State) :
    (dispatchFrame fb k d s).out.txlog = s.out.txlog := by
  rcases dispatchFrame_cases fb k d s with ⟨-, h⟩ | ⟨-, h⟩ <;> simp [h]

@[simp] theorem startFrame_out (b : Byte) (s : State) : (startFrame b s).out = s.out := by
  rcases startFrame_cases b s with ⟨-, h⟩ | ⟨-, -, h⟩ | ⟨k, d, -, -, h⟩ <;> simp [h]

@[simp] theorem collectByte_txlog (b : Byte) (s : State) : (collectByte b s).out.txlog = s.out.txlog := by
  rcases collectByte_cases b s with ⟨-, -, h⟩ | ⟨-, -, h⟩ | ⟨-, -, -, h⟩ | ⟨-, -, -, h⟩ | ⟨-, h⟩ <;> simp [h, deliver]

@[simp] theorem huntByte_out (b : Byte) (s : State) : (huntByte b s).out = s.out := by
  unfold huntByte
  split <;> rfl

@[simp] theorem receiveByte_txlog (b : Byte) (s : State) : (receiveByte b s).out.txlog = s.out.txlog := by
  unfold receiveByte
  split
  · split <;> simp
  · rfl

/-! ### The output streams: register writes -/

@[simp] theorem seqTransition_out (old new : Ctrl) (s : State) : (seqTransition old new s).out = s.out := by
  unfold seqTransition seqDisable
  dsimp only
  split
  · split <;> simp
  · rfl

@[simp] theorem rxTransition_out (old new : Ctrl) (s : State) : (rxTransition old new s).out = s.out := by
  unfold rxTransition
  split <;> rfl

@[simp] theorem classTransition_out (old new : Ctrl) (s : State) (c : MsgClass) :
    (classTransition old new s c).out = s.out := by
  unfold classTransition
  split <;> simp

@[simp] theorem ctrlWrite_out (v : Word) (s : State) : (ctrlWrite v s).out = s.out := by
  simp [ctrlWrite_eq, classTransitions]

@[simp] theorem writeReg_out (r : Reg) (v : Word) (s : State) : (writeReg r v s).out = s.out := by
  by_cases hr : r = .ctrl
  · subst hr
    exact ctrlWrite_out v s
  · obtain ⟨-, -, -, hout⟩ := writeReg_of_ne_ctrl hr v s
    exact hout

/-! ### The frames of one event (R69, R114, R126) -/

/-- What the sequencer may add to TXLOG in one event that ends in `t`: nothing, or the snapshot of the class that now holds
the slot, with its wait just started (R114). -/
def SequencerSent (t : State) (fs : List (List Byte)) : Prop :=
  fs = [] ∨ (fs = [(t.txn t.seq.scls).tf] ∧ t.seq.infl = true ∧ t.seq.wcnt = 0 ∧ t.host.ctrl.seqEn = true)

/-- What the host may add to TXLOG by the instruction `i` in `s`: nothing, or the frame of a transmit command (R174). -/
def HostSent (i : Instr) (s : State) (fs : List (List Byte)) : Prop :=
  fs = [] ∨ (RunsCommand .txRaw i ∧ fs = [composeHost true s]) ∨ (RunsCommand .txLogical i ∧ fs = [composeHost false s])

/-- The end of a step sends at most the one frame arbitration grants the slot to (R114, R126). -/
theorem endOfStep_sent (w : State) :
    ∃ fs, (endOfStep w).out.txlog = w.out.txlog ++ fs ∧ SequencerSent (endOfStep w) fs := by
  rcases arbitrate_cases w with ⟨h, -⟩ | ⟨c, hon, -, -, h⟩
  · exact ⟨[], by simp [h], .inl rfl⟩
  · exact ⟨[(w.txn c).tf], by simp [h], .inr ⟨by simp [h, grant_txn], by simp [h], by simp [h], by simpa using hon⟩⟩

/-- The event of `i` in `s` ends in `t`: work that sends nothing but a transmit command's frame, then the end of the step. -/
def EventEnds (i : Instr) (s t : State) : Prop :=
  ∃ w fs, t = endOfStep w ∧ w.out.txlog = s.out.txlog ++ fs ∧ HostSent i s fs

/-- An event whose work leaves TXLOG alone. -/
theorem EventEnds.of_silent {i : Instr} {s w : State} (h : w.out.txlog = s.out.txlog) : EventEnds i s (endOfStep w) :=
  ⟨w, [], rfl, by simp [h], .inl rfl⟩

/-- A command, in whichever spelling runs it (R223). -/
theorem eventEnds_cmdWrite {i : Instr} {v : Word} (hi : RunsCommand (commandOf v) i) (s : State) :
    EventEnds i s (cmdWrite v s) := by
  unfold cmdWrite
  cases hc : commandOf v with
  | nop | rxPop | clrErr => exact .of_silent rfl
  | trigger | dataEvent => exact .of_silent (by split <;> simp)
  | unassign => exact unassignStep_eq s ▸ .of_silent (unassignWork_txlog s)
  | txRaw => exact ⟨_, [composeHost true s], rfl, rfl, .inr (.inl ⟨hc ▸ hi, rfl⟩)⟩
  | txLogical => exact ⟨_, [composeHost false s], rfl, rfl, .inr (.inr ⟨hc ▸ hi, rfl⟩)⟩
  | reserved => exact .of_silent (by simp)

/-- Every instruction but a whole frame on the wire is one event (R9; log entry 2). -/
theorem exec_eventEnds {i : Instr} {s t : State} (h : exec i s = .next t) (hi : ∀ cfg, frameParts cfg i = none) :
    EventEnds i s t := by
  cases i with
  | idReq | idResp | reqReq | reqResp | wdReq | wdResp | dataReq | dataResp => cases hi s.cfg
  | unknownType b | rxByte b => cases h; exact .of_silent (receiveByte_txlog b s)
  | nop => cases h; exact eventEnds_cmdWrite (v := 0x00) (.inl rfl) s
  | trigger => cases h; exact eventEnds_cmdWrite (v := 0x01) (.inl rfl) s
  | dataEvent => cases h; exact eventEnds_cmdWrite (v := 0x02) (.inl rfl) s
  | rxPop => cases h; exact eventEnds_cmdWrite (v := 0x03) (.inl rfl) s
  | unassign => cases h; exact eventEnds_cmdWrite (v := 0x04) (.inl rfl) s
  | clrErr => cases h; exact eventEnds_cmdWrite (v := 0x05) (.inl rfl) s
  | txRaw => cases h; exact eventEnds_cmdWrite (v := 0x10) (.inl rfl) s
  | txLogical => cases h; exact eventEnds_cmdWrite (v := 0x11) (.inl rfl) s
  | reservedCmdLow | reservedCmdHigh => cases h; exact .of_silent (by simp)
  | tick =>
    cases h
    exact tickStep_eq s ▸ .of_silent (by split <;> simp)
  | reset nv => cases h; exact .of_silent (resetWork_txlog nv s)
  | regRead r => cases h; exact .of_silent (emitRead_txlog _ s)
  | regWrite r v =>
    cases h
    unfold regWriteStep
    split
    · next hr => exact eventEnds_cmdWrite (.inr ⟨v, hr ▸ rfl, rfl⟩) s
    · exact .of_silent (by simp)

/-- Settles O37: the event's work sends at most the host's frame, the end of its step at most the sequencer's. -/
theorem atMostOneSequencerFrame : Obligations.AtMostOneSequencerFrame := by
  intro i s t h hi
  obtain ⟨w, hostFrames, rfl, hwork, hhost⟩ := exec_eventEnds h hi
  obtain ⟨seqFrames, hend, hseq⟩ := endOfStep_sent w
  exact ⟨hostFrames, seqFrames, by rw [hend, hwork], hseq, hhost⟩

/-! ### Refused inputs (R61, R266) -/

/-- Every instruction has a meaning in every state (R266). -/
theorem exec_total (i : Instr) (s : State) : ∃ t, exec i s = .next t := by cases i <;> exact ⟨_, rfl⟩

/-- Without an input the block waits (R270; log entry 1). -/
theorem step_of_no_inputs {s : State} (h : s.inputs = []) : step s = .next s := by simp only [step, fetch, h]

/-- The access check passes exactly the accesses the interface has (R61). -/
theorem accessReject_eq_none_iff {width off : Nat} : accessReject width off = none ↔ accessAllowed width off := by
  unfold accessReject accessAllowed
  split_ifs <;> simp <;> omega

/-- What the access check rejects is refused (R61). -/
theorem fetchRejected_of_accessReject {width off : Nat} {r : Reject} (h : accessReject width off = some r) (x : Input)
    (s : State) : ∃ why, fetchRejected r x s = .refuse why := by
  unfold accessReject at h
  split_ifs at h <;> cases h <;> exact ⟨_, rfl⟩

/-- A stretch of the wire is never refused: where no frame starts, its first byte is received (R194; log entry 3). -/
theorem fetchRejected_of_decodeWire {cfg : Config} {bs : List Byte} {r : Reject} (h : decodeWire cfg bs = .reject r)
    (s : State) (why : Refusal) : fetchRejected r (.wire bs) s ≠ .refuse why := by
  unfold decodeWire at h
  cases bs with
  | nil => cases h; simp [fetchRejected]
  | cons b bs =>
    dsimp only at h
    split at h
    · split_ifs at h
      cases h
      simp [fetchRejected]
    · split at h <;> cases h
      simp [fetchRejected]

/-- An input the interface has is an instruction, or a stretch of the wire (R9, R61). -/
theorem decode_of_allowed (cfg : Config) {x : Input} (h : inputAllowed x) :
    (∃ i more, decode cfg x = .instr i more) ∨ ∃ bs, x = .wire bs := by
  cases x with
  | regRead width off =>
    obtain ⟨rfl, h4, hlt⟩ := h
    exact .inl ⟨_, _, decode_regRead cfg h4 hlt⟩
  | regWrite width off v =>
    simp only [decode, accessReject_eq_none_iff.mpr h]
    left
    split <;> exact ⟨_, _, rfl⟩
  | wire bs => exact .inr ⟨bs, rfl⟩
  | reset | rxByte | tick => exact .inl ⟨_, _, rfl⟩

/-- An input the interface does not have is a register access that fails its access check (R61). -/
theorem decode_of_not_allowed (cfg : Config) {x : Input} (h : ¬ inputAllowed x) :
    ∃ width off r, accessReject width off = some r ∧ decode cfg x = .reject r := by
  cases x with
  | regRead width off | regWrite width off =>
    obtain ⟨r, hr⟩ := Option.ne_none_iff_exists'.mp (mt accessReject_eq_none_iff.mp h)
    exact ⟨width, off, r, hr, by simp only [decode, hr]⟩
  | reset | rxByte | tick | wire => exact absurd trivial h

/-- The fetch of an input the decoder rejects. -/
theorem fetch_of_decode_reject {s : State} {x : Input} {rest : List Input} {r : Reject} (hx : s.inputs = x :: rest)
    (hd : decode s.cfg x = .reject r) : fetch s = fetchRejected r x (s.setInputs rest) := by
  simp only [fetch, hx, hd]

/-- Of the inputs the fetch refuses exactly those the interface does not have (R61). -/
theorem fetch_refuses_iff {s : State} {x : Input} {rest : List Input} (hx : s.inputs = x :: rest) :
    (∃ why, fetch s = .refuse why) ↔ ¬ inputAllowed x := by
  constructor
  · rintro ⟨why, hf⟩ hallowed
    rcases hd : decode s.cfg x with ⟨i, more⟩ | r
    · rw [fetch_of_decode_instr hx hd] at hf
      cases hf
    · rcases decode_of_allowed s.cfg hallowed with ⟨i, more, hi⟩ | ⟨bs, rfl⟩
      · rw [hi] at hd
        cases hd
      · rw [fetch_of_decode_reject hx hd] at hf
        exact fetchRejected_of_decodeWire hd _ why hf
  · intro hbad
    obtain ⟨width, off, r, hr, hd⟩ := decode_of_not_allowed s.cfg hbad
    rw [fetch_of_decode_reject hx hd]
    exact fetchRejected_of_accessReject hr x _

/-- A step whose input the fetch does not refuse has a next state (R266). -/
theorem step_of_not_refused {s : State} (h : ¬ ∃ why, fetch s = .refuse why) : ∃ t, step s = .next t := by
  rcases fetch_cases s with ⟨xs, hf⟩ | ⟨i, xs, hf⟩ | hf
  · exact ⟨s.setInputs xs, by simp only [step, hf]⟩
  · rw [step_of_fetch_run hf]
    exact exec_total i _
  · exact absurd hf h

/-- Settles O5: every meaning answers a next state, and the fetch refuses the bad register accesses alone. -/
theorem onlyBadAccessesAreRefused : Obligations.OnlyBadAccessesAreRefused := by
  refine ⟨exec_total, fun s => step_of_no_inputs, fun s x rest hx => ⟨fun hallowed => ?_, fun hbad => ?_⟩⟩
  · exact step_of_not_refused fun hf => (fetch_refuses_iff hx).mp hf hallowed
  · obtain ⟨why, hf⟩ := (fetch_refuses_iff hx).mpr hbad
    exact ⟨why, by simp only [step, hf]⟩

/-! ### Register reads (R66, R220) -/

/-- A returned value is no concern of arbitration or of IRQ (R233; log entry 8). -/
theorem Settled.emitRead {s : State} (h : Settled s) (w : Word) : Settled (emitRead w s) := ⟨h.arbitrated, h.irq⟩

/-- Settles O44: the value joins RDLOG, and the end of the step leaves a settled state alone. -/
theorem regReadHasNoSideEffect : Obligations.RegReadHasNoSideEffect := by
  intro s r hs
  have hstep : regReadStep r s = emitRead (readReg s r) s := endOfStep_of_settled (hs.emitRead _)
  exact congrArg Host.Outcome.next hstep

end Sys2Proof.Machine

/-! SUPPORT. The decoder and the encoder (spec/30_encoding.md R81 to R94, R99): command words by their low byte, register
operands by their offset, and a well-formed instruction's frame by its first candidate that ends.
-/
namespace Sys2Proof.Machine
open Sys2Proof

/-! ### Command words (R92 to R94, R223) -/

/-- The opcodes that R93 lists. -/
def listedOpcodes : List Nat := [0x00, 0x01, 0x02, 0x03, 0x04, 0x05, 0x10, 0x11]

/-- Every opcode that R93 does not list is a reserved one (R94). -/
theorem commandOf_eq_reserved {v : Word} (h : (lane v 0).toNat ∉ listedOpcodes) : commandOf v = .reserved (lane v 0) := by
  have hne (op : Byte) (hop : op.toNat ∈ listedOpcodes) : lane v 0 ≠ op := by
    rintro rfl
    exact h hop
  unfold commandOf
  simp only [hne 0x00 (by decide), hne 0x01 (by decide), hne 0x02 (by decide), hne 0x03 (by decide), hne 0x04 (by decide),
    hne 0x05 (by decide), hne 0x10 (by decide), hne 0x11 (by decide), if_false]

/-- A write to CMD decodes to the instruction of its command (R92). -/
theorem decode_cmdWrite (cfg : Config) (v : Word) :
    decode cfg (.regWrite 32 0x18 v) = .instr (commandInstr (commandOf v)) [] := rfl

/-- The opcode of a command word is its low byte (R92). -/
theorem lane_zero_toNat (v : Word) : (lane v 0).toNat = (v &&& 0xFF).toNat := by
  rw [lane, BitVec.extractLsb'_toNat, BitVec.toNat_and]
  exact (Nat.and_two_pow_sub_one_eq_mod v.toNat 8).symm

/-- The word an opcode is spelled as has that opcode (R92). -/
theorem lane_zero_setWidth (op : Byte) : lane (op.setWidth 32) 0 = op := by
  apply BitVec.eq_of_toNat_eq
  rw [lane, BitVec.extractLsb'_toNat, BitVec.toNat_setWidth]
  omega

/-- Settles O3: opcode by opcode, then the rest of them. -/
theorem commandWordOpcodeMap : Obligations.CommandWordOpcodeMap := by
  intro cfg v
  rw [decode_cmdWrite, ← lane_zero_toNat]
  have hlane {n : Nat} (h : (lane v 0).toNat = n) : lane v 0 = BitVec.ofNat 8 n := by
    rw [← h, BitVec.ofNat_toNat, BitVec.setWidth_eq]
  split
  iterate 8 · next h => simp only [commandOf, hlane h]; rfl
  · rw [commandOf_eq_reserved (by simp_all [listedOpcodes])]
    simp [commandInstr]

/-- Settles O54: both spellings run the one step of the command. -/
theorem cmdWriteRunsCommand : Obligations.CmdWriteRunsCommand := by
  intro s v
  change Host.Outcome.next (cmdWrite v s) = _
  unfold cmdWrite
  cases hc : commandOf v with
  | reserved op =>
    unfold commandInstr
    dsimp only
    split <;> rfl
  | _ => rfl

/-! ### A byte that is no type code (R91, R195, R252) -/

/-- A byte is spelled as an unknown type where no frame starts with it and it is no filler (R91). -/
theorem wellFormed_unknownType {cfg : Config} {code : Byte} :
    wellFormed cfg (.unknownType code) = true ↔ classify cfg.tc code = none ∧ code ≠ DELIM := by
  simp [wellFormed]

/-- The wire decoder takes such a byte alone (R99). -/
theorem decodeWire_of_unknownType {cfg : Config} {code : Byte} (hc : classify cfg.tc code = none) (hb : code ≠ DELIM)
    (bs : List Byte) : decodeWire cfg (code :: bs) = .instr (.unknownType code) (wireRest bs) := by
  simp only [decodeWire, hc, if_neg hb]

/-- Settles O17: both spellings are the one byte, which starts no frame and so counts and hunts. -/
theorem unknownTypeCountsAndHunts : Obligations.UnknownTypeCountsAndHunts := by
  intro s code i hi hs hon hx hwf
  have hexec : exec i s = .next (rxByteStep code s) := by rcases hi with rfl | rfl <;> rfl
  obtain ⟨hc, hb⟩ := wellFormed_unknownType.mp hwf
  have hrecv : receiveByte code s = (countEvent .errType s).setFrx { s.frx with rxs := .hunt } := by
    simp only [receiveByte, hon, hx, if_true]
    rcases startFrame_cases code s with ⟨hd, -⟩ | ⟨-, -, h⟩ | ⟨k, d, -, hk, -⟩
    · exact absurd hd hb
    · exact h
    · simp [hc] at hk
  have hq : Quiet (receiveByte code s) := hs.quiet.of_eq (by simp [hrecv]) (by simp [hrecv])
  refine ⟨_, rfl, ?_⟩
  rw [hexec, rxByteStep, endOfStep_of_quiet hq, hrecv, ← satInc_byte]
  rfl

/-! ### Register operands (R23, R37, R62) -/

/-- A register stands at its own offset, an aligned one inside the window (R23, R37, R61). -/
theorem regAt_regOffset {r : Reg} (h : regWellFormed r = true) :
    regOffset r % 4 = 0 ∧ regOffset r < 0x100 ∧ regAt (regOffset r) = r := by
  cases r with
  | reserved off =>
    simp only [regWellFormed, Bool.and_eq_true, beq_iff_eq] at h
    exact ⟨h.1, off.isLt, h.2⟩
  | period c | wait c | retry c => cases c <;> decide
  | _ => decide

/-! ### Frames on the wire (R81 to R87, R99) -/

/-- A wire instruction is spelled by the bytes of its frame (R81). -/
theorem encode_of_frameParts {cfg : Config} {i : Instr} {k : MsgClass} {d : Direction} {fb : List Byte}
    (h : frameParts cfg i = some (k, d, fb)) : encode cfg i = .wire fb := by
  cases i with
  | idReq | idResp | reqReq | reqResp | wdReq | wdResp | dataReq | dataResp => cases h; rfl
  | _ => cases h

/-- The battery byte of a base-shape frame is read back where it was written (R84, R177). -/
theorem frameBatt_baseFrame (cfg : Config) (k : MsgClass) (d : Direction) (a : Addr) (val : Byte) (batt : Option Byte) :
    frameBatt (baseFrame cfg k d a val batt) = batt := by
  cases batt <;> rfl

/-- The field view of an instruction's frame is the instruction (R177). -/
theorem frameInstr_of_frameParts {cfg : Config} {i : Instr} {k : MsgClass} {d : Direction} {fb : List Byte}
    (h : frameParts cfg i = some (k, d, fb)) : frameInstr k d fb = i := by
  cases i with
  | idReq | idResp => cases h; rfl
  | reqReq | reqResp | wdReq | wdResp | dataReq | dataResp =>
    cases h
    simp only [frameInstr, frameBatt_baseFrame]
    rfl
  | _ => cases h

/-- The wire decoder takes the first candidate that ends in the stream (R99). -/
theorem decodeWire_of_find {cfg : Config} {bs : List Byte} {k : MsgClass} {d : Direction} {n : Nat}
    (ht : bs.getD 0 0 = typeCode cfg.tc k d) (hne : bs ≠ []) (hn : (candLens k).find? (endsAt cfg.chk bs) = some n) :
    decodeWire cfg bs = .instr (frameInstr k d (bs.take n)) (wireRest (bs.drop n)) := by
  cases bs with
  | nil => exact absurd rfl hne
  | cons t rest =>
    obtain rfl : t = typeCode cfg.tc k d := ht
    simp only [decodeWire, classify_typeCode, hn]

/-- The first candidate that ends in a frame is the whole of it (R99, R291). -/
theorem IsWireFrame.find {cfg : Config} {k : MsgClass} {d : Direction} {fb : List Byte} (h : IsWireFrame cfg k d fb) :
    (candLens k).find? (endsAt cfg.chk fb) = some fb.length := by
  have hfirst (n : Nat) (hn : n ∈ candLens k) (hend : endsAt cfg.chk fb n = true) : n = fb.length := by
    obtain ⟨hle, -, -⟩ := endsAt_iff.mp hend
    by_contra hne
    simp [h.first n hn (by omega)] at hend
  cases hf : (candLens k).find? (endsAt cfg.chk fb) with
  | none => exact absurd h.ends (List.find?_eq_none.mp hf _ h.len)
  | some n => rw [hfirst n (List.mem_of_find?_eq_some hf) (List.find?_some hf)]

/-- One frame on the wire decodes to its field view, with nothing left over (R99). -/
theorem IsWireFrame.decode {cfg : Config} {k : MsgClass} {d : Direction} {fb : List Byte} (h : IsWireFrame cfg k d fb) :
    decode cfg (.wire fb) = .instr (frameInstr k d fb) [] := by
  have hne : fb ≠ [] := by
    rintro rfl
    obtain ⟨hlo, -⟩ := candLens_range h.len
    simp at hlo
  have hd := decodeWire_of_find h.type hne h.find
  rwa [List.take_length, List.drop_length] at hd

/-- A well-formed wire instruction is decoded from its own frame (R81, R177, R291). -/
theorem decode_encode_of_frameParts {cfg : Config} {i : Instr} {p : MsgClass × Direction × List Byte}
    (h : frameParts cfg i = some p) (hwf : wellFormed cfg i = true) : decode cfg (encode cfg i) = .instr i [] := by
  obtain ⟨k, d, fb⟩ := p
  rw [encode_of_frameParts h, (isWireFrame_of_frameParts h hwf).decode, frameInstr_of_frameParts h]

/-- A command's spelling decodes by its opcode (R92). -/
theorem decode_commandInput (cfg : Config) (op : Byte) :
    decode cfg (commandInput op) = .instr (commandInstr (commandOf (op.setWidth 32))) [] := decode_cmdWrite cfg _

/-- A reserved opcode is spelled as itself (R94). -/
theorem decode_commandInput_reserved (cfg : Config) {op : Byte} (h : op.toNat ∉ listedOpcodes) :
    decode cfg (commandInput op) = .instr (if op.toNat < 0x10 then .reservedCmdLow op else .reservedCmdHigh op) [] := by
  rw [decode_commandInput, commandOf_eq_reserved (by rwa [lane_zero_setWidth]), lane_zero_setWidth, commandInstr]

/-- Settles O1: a frame by its first candidate that ends, a command by its opcode, a register access by its offset. -/
theorem decodeEncodeEveryInstruction : Obligations.DecodeEncodeEveryInstruction := by
  intro cfg i hwf
  cases i with
  | idReq | idResp | reqReq | reqResp | wdReq | wdResp | dataReq | dataResp => exact decode_encode_of_frameParts rfl hwf
  | unknownType code =>
    obtain ⟨hc, hb⟩ := wellFormed_unknownType.mp hwf
    exact decodeWire_of_unknownType hc hb []
  | nop | trigger | dataEvent | rxPop | unassign | clrErr | txRaw | txLogical => exact decode_commandInput cfg _
  | reservedCmdLow op =>
    simp only [wellFormed, Bool.and_eq_true, decide_eq_true_eq] at hwf
    obtain ⟨hlo, hhi⟩ := hwf
    rw [encode, decode_commandInput_reserved cfg (by simp [listedOpcodes]; omega), if_pos (by omega)]
  | reservedCmdHigh op =>
    simp only [wellFormed, decide_eq_true_eq] at hwf
    rw [encode, decode_commandInput_reserved cfg (by simp [listedOpcodes]; omega), if_neg (by omega)]
  | rxByte | tick | reset => rfl
  | regRead r =>
    obtain ⟨h4, hlt, hr⟩ := regAt_regOffset hwf
    rw [encode, decode_regRead cfg h4 hlt, hr]
  | regWrite r v =>
    simp only [wellFormed, Bool.and_eq_true, bne_iff_ne] at hwf
    obtain ⟨hreg, hcmd⟩ := hwf
    obtain ⟨h4, hlt, hr⟩ := regAt_regOffset hreg
    rw [encode, decode_regWrite cfg v h4 hlt (by rwa [hr]), hr]

end Sys2Proof.Machine

/-! SUPPORT. A stretch of the wire (spec/30_encoding.md R96; log entries 2, 3): receiving bytes has nothing to do with the
inputs lined up behind them; what the wire decoder takes is received byte by byte, and the rest of the stretch goes back.
-/
namespace Sys2Proof.Machine
open Sys2Proof

/-! ### The inputs are no operand of an event's work -/

/-- A function of the state that neither reads nor writes the inputs lined up (log entry 1). -/
def IgnoresInputs (f : State → State) : Prop := ∀ s xs, f (s.setInputs xs) = (f s).setInputs xs

namespace IgnoresInputs
variable {f g : State → State}

theorem comp (hg : IgnoresInputs g) (hf : IgnoresInputs f) : IgnoresInputs (fun s => g (f s)) := by
  intro s xs
  dsimp only
  rw [hf s xs, hg (f s) xs]

theorem ite {p : State → Prop} [DecidablePred p] (hp : ∀ s xs, p (s.setInputs xs) ↔ p s) (hf : IgnoresInputs f)
    (hg : IgnoresInputs g) : IgnoresInputs (fun s => if p s then f s else g s) := by
  intro s xs
  simp only [hp s xs]
  split
  · exact hf s xs
  · exact hg s xs

theorem id : IgnoresInputs (fun s => s) := fun _ _ => rfl

theorem freeSlotOf (c : MsgClass) : IgnoresInputs (freeSlotOf c) :=
  ite (fun _ _ => Iff.rfl) (fun _ _ => rfl) id

theorem endTxn (c : MsgClass) : IgnoresInputs (endTxn c) :=
  (freeSlotOf c).comp (f := fun s => s.setTxn c { s.txn c with active := false, pend := false, sent := false, elap := 0 })
    fun _ _ => rfl

theorem countEvent (e : Event) : IgnoresInputs (countEvent e) := by
  intro s xs
  cases e <;> rfl

theorem acceptIdentification (a : Addr) : IgnoresInputs (acceptIdentification a) := by
  refine ite (fun _ _ => Iff.rfl) ?_ id
  have hclear (c : MsgClass) : IgnoresInputs (clearPcnt c) := fun _ _ => rfl
  exact (hclear .wd).comp ((hclear .req).comp ((endTxn .id).comp fun _ _ => rfl))

theorem matchResponse (k : MsgClass) (d : Direction) (fb : List Byte) : IgnoresInputs (matchResponse k d fb) := by
  refine ite (fun _ _ => Iff.rfl) id (ite (fun _ _ => Iff.rfl) (acceptIdentification _) (ite (fun _ _ => Iff.rfl) ?_ id))
  exact comp (g := fun s => s.raise .ack) (fun _ _ => rfl) (endTxn k)

theorem dispatchFrame (fb : List Byte) (k : MsgClass) (d : Direction) : IgnoresInputs (dispatchFrame fb k d) :=
  (matchResponse k d fb).comp (ite (fun _ _ => Iff.rfl) (countEvent .rxOvr) fun _ _ => rfl)

theorem startFrame (b : Byte) : IgnoresInputs (startFrame b) := by
  intro s xs
  rcases startFrame_cases b s with ⟨hb, h⟩ | ⟨hb, hc, h⟩ | ⟨k, d, hb, hc, h⟩
  · rw [h, Machine.startFrame, if_pos hb]
  · rw [h]
    simp only [Machine.startFrame, if_neg hb, State.setInputs_cfg, hc, countEvent .errType s xs]
    rfl
  · rw [h]
    simp only [Machine.startFrame, if_neg hb, State.setInputs_cfg, hc]
    rfl

theorem collectByte (b : Byte) : IgnoresInputs (collectByte b) := by
  have hdeliver : IgnoresInputs fun s => deliver (s.frx.rn + 1)
      (s.setFrx { s.frx with rb := s.frx.rb.setIfInBounds s.frx.rn b, rxs := .idle, rn := 0, rsd := false }) :=
    fun s xs => dispatchFrame _ _ _ (s.setFrx _) xs
  have hdiscard (e : Event) (rxs : RxState) : IgnoresInputs fun s =>
      let s1 := Machine.countEvent e
        (s.setFrx { s.frx with rb := s.frx.rb.setIfInBounds s.frx.rn b, rn := 0, rsd := false })
      s1.setFrx { s1.frx with rxs := rxs } :=
    comp (g := fun s => s.setFrx { s.frx with rxs := rxs }) (fun _ _ => rfl) ((countEvent e).comp fun _ _ => rfl)
  refine ite (fun _ _ => Iff.rfl) hdeliver (ite (fun _ _ => Iff.rfl) ?_ (ite (fun _ _ => Iff.rfl) ?_ ?_))
  · refine ite (fun _ _ => Iff.rfl) (hdiscard .errChk .idle) (ite (fun _ _ => Iff.rfl) ?_ (hdiscard .errFrame .hunt))
    exact (startFrame b).comp (hdiscard .errChk .idle)
  · exact fun _ _ => rfl
  · exact fun _ _ => rfl

theorem huntByte (b : Byte) : IgnoresInputs (huntByte b) :=
  ite (fun _ _ => Iff.rfl) (fun _ _ => rfl) id

theorem receiveByte (b : Byte) : IgnoresInputs (receiveByte b) := by
  refine ite (fun _ _ => Iff.rfl) (fun s xs => ?_) id
  rw [State.setInputs_frx]
  cases s.frx.rxs with
  | hunt => exact huntByte b s xs
  | idle => exact startFrame b s xs
  | collect => exact collectByte b s xs

theorem arbitrate : IgnoresInputs arbitrate := by
  refine ite (fun _ _ => Iff.rfl) (fun s xs => ?_) id
  have hsend : (s.setInputs xs).sendable = s.sendable := rfl
  rw [hsend]
  cases priority.find? s.sendable <;> rfl

theorem endOfStep : IgnoresInputs endOfStep :=
  comp (g := fun s => s.setOut { s.out with irq := irqLevel s.host }) (fun _ _ => rfl) arbitrate

theorem rxByteStep (b : Byte) : IgnoresInputs (rxByteStep b) := endOfStep.comp (receiveByte b)

theorem receiveBytes (bs : List Byte) : IgnoresInputs (receiveBytes bs) := by
  induction bs with
  | nil => exact id
  | cons b bs ih => exact ih.comp (rxByteStep b)

end IgnoresInputs

/-! ### What the wire decoder answers (R99, R161, R177) -/

/-- Only a type code classifies, and as its own class and direction (R161). -/
theorem eq_typeCode_of_classify {tc : TypeCodes} {t : Byte} {k : MsgClass} {d : Direction}
    (h : classify tc t = some (k, d)) : t = typeCode tc k d := by
  obtain ⟨k', -, hk⟩ := List.exists_of_findSome?_eq_some h
  unfold classifyAs at hk
  split_ifs at hk with hreq hresp <;> cases hk
  · exact hreq
  · exact hresp

/-- Eight bytes that validate are the frame of their four payload bytes (R82, R83, R192). -/
theorem frame_of_endsAt_eight {c : Checksum} {fb : List Byte} (hlen : fb.length = 8) (h : endsAt c fb 8 = true) :
    frame c (fb.getD 0 0) (frameAddr fb).toList = fb := by
  match fb, hlen with
  | [t, b1, b2, b3, b4, c0, c1, e], _ =>
    obtain ⟨-, he, hv⟩ := endsAt_iff.mp h
    have hc : chk c [t, b1, b2, b3, b4] = (c0, c1) := by simpa [validAt] using hv
    have he : e = DELIM := he
    simp [frame, frameAddr, Addr.toList, hc, he]

/-- Nine or ten bytes that validate are the base-shape frame of their fields (R84, R192). -/
theorem frame_of_endsAt_base {c : Checksum} {fb : List Byte} (hlen : fb.length = 9 ∨ fb.length = 10)
    (h : endsAt c fb fb.length = true) :
    frame c (fb.getD 0 0) ((frameAddr fb).toList ++ fb.getD 5 0 :: (frameBatt fb).toList) = fb := by
  obtain ⟨-, he, hv⟩ := endsAt_iff.mp h
  match fb, hlen with
  | [t, b1, b2, b3, b4, v, c0, c1, e], .inl _ =>
    have hc : chk c [t, b1, b2, b3, b4, v] = (c0, c1) := by simpa [validAt] using hv
    have he : e = DELIM := he
    simp [frame, frameAddr, frameBatt, Addr.toList, hc, he]
  | [t, b1, b2, b3, b4, v, b, c0, c1, e], .inr _ =>
    have hc : chk c [t, b1, b2, b3, b4, v, b] = (c0, c1) := by simpa [validAt] using hv
    have he : e = DELIM := he
    simp [frame, frameAddr, frameBatt, Addr.toList, hc, he]

/-- The field view of a validated frame keeps every byte of it: its frame is the one it was read from (R177). -/
theorem frameParts_frameInstr {cfg : Config} {k : MsgClass} {d : Direction} {fb : List Byte}
    (ht : fb.getD 0 0 = typeCode cfg.tc k d) (hlen : fb.length ∈ candLens k) (h : endsAt cfg.chk fb fb.length = true) :
    frameParts cfg (frameInstr k d fb) = some (k, d, fb) := by
  cases k with
  | id =>
    have h8 : fb.length = 8 := by simpa [candLens] using hlen
    have hfb := frame_of_endsAt_eight h8 (h8 ▸ h)
    rw [ht] at hfb
    cases d <;> exact congrArg (fun f => some (_, _, f)) hfb
  | req | wd | data =>
    have hfb := frame_of_endsAt_base (by simpa [candLens] using hlen) h
    rw [ht] at hfb
    cases d <;> exact congrArg (fun f => some (_, _, f)) hfb

/-- A candidate that ends in a stretch of the wire ends in its own bytes (R199). -/
theorem endsAt_take {c : Checksum} {bs : List Byte} {n : Nat} (hn : 3 ≤ n) (h : endsAt c bs n = true) :
    (bs.take n).length = n ∧ endsAt c (bs.take n) n = true := by
  obtain ⟨hle, hd, hv⟩ := endsAt_iff.mp h
  have hlen : (bs.take n).length = n := by simpa using hle
  refine ⟨hlen, endsAt_iff.mpr ⟨hlen.ge, ?_, ?_⟩⟩
  · rwa [List.getD_eq_getElem?_getD, List.getElem?_take_of_lt (by omega), ← List.getD_eq_getElem?_getD]
  · rwa [validAt_congr c hn (ys := bs) (by simp)]

/-- A step on a stretch of the wire is the arrival of its first bytes, a whole frame's or just one; the rest goes back (R99,
R194; log entries 2, 3). -/
theorem step_wire {s : State} {b : Byte} {bs : List Byte} {rest : List Input} (hx : s.inputs = .wire (b :: bs) :: rest) :
    ∃ n, 1 ≤ n ∧ n ≤ (b :: bs).length ∧
      step s = .next (receiveBytes ((b :: bs).take n) (s.setInputs (wireRest ((b :: bs).drop n) ++ rest))) := by
  have hrej {r : Reject} (hd : decode s.cfg (.wire (b :: bs)) = .reject r)
      (hf : ∀ t, fetchRejected r (.wire (b :: bs)) t = .run (.rxByte b) (t.setInputs (wireRest bs ++ t.inputs))) :
      step s = .next (receiveBytes [b] (s.setInputs (wireRest bs ++ rest))) :=
    step_of_fetch_run ((fetch_of_decode_reject hx hd).trans (hf _))
  have hone : 1 ≤ (b :: bs).length := by simp
  cases hc : classify s.cfg.tc b with
  | none =>
    refine ⟨1, le_rfl, hone, ?_⟩
    by_cases hb : b = DELIM
    · exact hrej (r := .wireFiller) (by simp only [decode, decodeWire, hc, if_pos hb]) fun _ => rfl
    · exact stepRunsDecodedInstruction s _ rest _ _ hx (decodeWire_of_unknownType hc hb bs)
  | some p =>
    obtain ⟨k, d⟩ := p
    cases hf : (candLens k).find? (endsAt s.cfg.chk (b :: bs)) with
    | none =>
      exact ⟨1, le_rfl, hone, hrej (r := .wireNoFrame b) (by simp only [decode, decodeWire, hc, hf]) fun _ => rfl⟩
    | some n =>
      have hmem := List.mem_of_find?_eq_some hf
      have hends := List.find?_some hf
      obtain ⟨h8, -⟩ := candLens_range hmem
      obtain ⟨hle, -, -⟩ := endsAt_iff.mp hends
      obtain ⟨hlen, htake⟩ := endsAt_take (by omega) hends
      have h1 : 1 ≤ n := by omega
      refine ⟨n, h1, hle, ?_⟩
      have htype : b = typeCode s.cfg.tc k d := eq_typeCode_of_classify hc
      have htype' : ((b :: bs).take n).getD 0 0 = typeCode s.cfg.tc k d := by
        obtain ⟨m, rfl⟩ := Nat.exists_eq_add_of_le' h1
        exact htype
      have hparts := frameParts_frameInstr htype' (by rwa [hlen]) (by rwa [hlen])
      rw [stepRunsDecodedInstruction s _ rest _ _ hx (decodeWire_of_find (bs := b :: bs) htype (by simp) hf)]
      exact exec_of_frameParts (s := s.setInputs _) hparts

/-- An empty stretch of the wire is dropped (log entry 3). -/
theorem step_wire_nil {s : State} {rest : List Input} (hx : s.inputs = .wire [] :: rest) :
    step s = .next (s.setInputs rest) := by
  have hf : fetch s = .idle (s.setInputs rest) := fetch_of_decode_reject (r := .wireEmpty) hx rfl
  simp only [step, hf]

/-- A run whose first step has a next state goes on from there. -/
theorem run_succ_of_step {M : Host.Core} {s t : M.State} (h : M.step s = .next t) (n : Nat) :
    M.run (n + 1) s = M.run n t := by
  simp only [Host.Core.run, h]

/-- Settles O6, by induction on the bytes left: each step receives a first part of them and puts the rest back. -/
theorem wireStreamIsItsBytes : Obligations.WireStreamIsItsBytes := by
  intro bs rest s hx
  change ∃ n, n ≤ bs.length + 1 ∧ core.run n s = .next (receiveBytes bs (s.setInputs rest))
  induction hl : bs.length using Nat.strong_induction_on generalizing bs s with
  | _ l ih =>
  subst hl
  cases bs with
  | nil => exact ⟨1, le_rfl, run_succ_of_step (M := core) (step_wire_nil hx) 0⟩
  | cons b bs =>
    obtain ⟨n, h1, hn, hstep⟩ := step_wire hx
    generalize b :: bs = bs at *
    by_cases hwhole : n = bs.length
    · rw [hwhole, List.drop_length, List.take_length] at hstep
      exact ⟨1, by omega, run_succ_of_step (M := core) hstep 0⟩
    · have hrest : wireRest (bs.drop n) = [.wire (bs.drop n)] := if_neg (by simp; omega)
      rw [hrest] at hstep
      obtain ⟨-, hinputs⟩ := receiveBytes_cfg_inputs (bs.take n) (s.setInputs (.wire (bs.drop n) :: rest))
      obtain ⟨m, hm, hrun⟩ := ih (bs.drop n).length (by simp; omega) (bs.drop n) _ hinputs rfl
      refine ⟨m + 1, by simp at hm; omega, ((run_succ_of_step (M := core) hstep m).trans hrun).trans ?_⟩
      rw [← IgnoresInputs.receiveBytes, ← receiveBytes_append, List.take_append_drop]
      rfl

end Sys2Proof.Machine

/-! SUPPORT. The end of a step and the event commands of the sequencer (spec/40_sequencer.md R111 to R114, R122, R123, R129):
which class the free slot goes to, what TRIGGER, DATA_EVENT and UNASSIGN leave, and which events are ignored. -/
namespace Sys2Proof.Machine
open Sys2Proof

/-! ### Arbitration (R114, R129) -/

/-- Only a due class can be granted the slot, and only where it is Allowed (R114). -/
theorem sendable_eq_true {s : State} {c : MsgClass} :
    s.sendable c = true ↔ (s.txn c).pend = true ∧ allowed s.seq.astate c = true := by
  simp [State.sendable]

/-- Where nothing is due there is nothing to arbitrate. -/
theorem quiet_of_not_pend {s : State} (h : ∀ c, (s.txn c).pend = false) : Quiet s :=
  fun _ _ c => by simp [State.sendable, h c]

/-- While the slot is held there is nothing to arbitrate. -/
theorem quiet_of_infl {s : State} (h : s.seq.infl = true) : Quiet s := fun _ hfree => by simp [h] at hfree

/-- Only ID is Allowed in REQUESTED, only the others in ASSIGNED (R114). -/
theorem allowed_iff {a : AState} {c : MsgClass} :
    allowed a c = true ↔ (c = .id ∧ a = .requested) ∨ (c ≠ .id ∧ a = .assigned) := by
  cases c <;> simp [allowed]

/-- The free slot goes to the first sendable class in priority order (R114). -/
theorem arbitrate_of_first {s : State} {c : MsgClass} (hon : s.host.ctrl.seqEn = true) (hfree : s.seq.infl = false)
    (hfirst : priority.find? s.sendable = some c) : arbitrate s = grant c s := by
  unfold arbitrate
  rw [if_pos ⟨hon, hfree⟩, hfirst]

/-- The free slot goes to the only sendable class. -/
theorem arbitrate_of_only {s : State} {c : MsgClass} (hon : s.host.ctrl.seqEn = true) (hfree : s.seq.infl = false)
    (hsend : s.sendable c = true) (honly : ∀ k, k ≠ c → s.sendable k = false) : arbitrate s = grant c s := by
  rcases arbitrate_cases s with ⟨-, hnone⟩ | ⟨k, -, -, hk, he⟩
  · simp [hnone hon hfree c] at hsend
  · have hkc : k = c := by
      by_contra hne
      simp [honly k hne] at hk
    rw [he, hkc]

/-- The priority order: ID in REQUESTED; in ASSIGNED DATA before WD before REQ (R129). -/
theorem priority_find {s : State} {c : MsgClass} (hp : (s.txn c).pend = true)
    (hc : c = .id ∧ s.seq.astate = .requested ∨
      c ≠ .id ∧ s.seq.astate = .assigned ∧ (c ≠ .data → (s.txn .data).pend = false) ∧
        (c = .req → (s.txn .wd).pend = false)) :
    priority.find? s.sendable = some c := by
  rcases hc with ⟨rfl, hst⟩ | ⟨hid, hst, hdata, hwd⟩
  · simp [priority, State.sendable, allowed, hp, hst]
  · cases c with
    | id => exact absurd rfl hid
    | data => simp [priority, State.sendable, allowed, hp, hst]
    | wd => simp [priority, State.sendable, allowed, hp, hst, hdata (by decide)]
    | req => simp [priority, State.sendable, allowed, hp, hst, hdata (by decide), hwd rfl]

/-- Settles O29: the class is the first in priority order, and the grant and IRQ are all that happens. -/
theorem arbitrationPriority : Obligations.ArbitrationPriority := by
  intro s c hon hfree hp hc
  rw [endOfStep, arbitrate_of_first hon hfree (priority_find hp hc)]
  rfl

/-! ### TRIGGER and DATA_EVENT (R111 to R113, R122) -/

/-- The snapshot of a base-shape class, byte by byte (R84, R113). -/
theorem composeSeq_eq_frame (s : State) {c : MsgClass} (hc : c ≠ .id) :
    composeSeq s c = frame s.cfg.chk (s.cfg.tc.code.get c)
      ([s.host.addr.b0, s.host.addr.b1, s.host.addr.b2, s.host.addr.b3, 0x30 + s.host.sval.value % 2]
        ++ (if s.host.ctrl.battEn then [0x30 + s.host.sval.batt % 10] else [])) := by
  have hbatt : (composeSeq.seqBatt s).toList = if s.host.ctrl.battEn then [0x30 + s.host.sval.batt % 10] else [] := by
    unfold composeSeq.seqBatt
    split <;> rfl
  rw [← hbatt]
  cases c with
  | id => exact absurd rfl hc
  | req | wd | data => rfl

/-- Settles O26: the new transaction is due, ID is Allowed in REQUESTED and the slot is free. -/
theorem triggerSendsRequest : Obligations.TriggerSendsRequest := by
  intro s hon hst hfree
  have hexec : exec .trigger s = .next (endOfStep (newTxn .id (s.setAState .requested))) := by
    change Host.Outcome.next (triggerStep s) = _
    rw [triggerStep, if_pos ⟨hon, hst⟩]
  have hfree' : (newTxn .id (s.setAState .requested)).seq.infl = false := by simp [newTxn_eq, hfree]
  rw [hexec, arbitrationPriority _ .id (by simpa using hon) hfree' (by simp [newTxn_txn]) (.inl ⟨rfl, by simp⟩)]
  simp only [newTxn_eq]
  rfl

/-- Settles O28: NewTxn(DATA) frees the slot DATA holds; DATA comes first in ASSIGNED, and waits for a slot another class
holds. -/
theorem dataEventSendsOrQueues : Obligations.DataEventSendsOrQueues := by
  intro s hon hst hen
  have hexec : exec .dataEvent s = .next (endOfStep (newTxn .data s)) := by
    change Host.Outcome.next (dataEventStep s) = _
    rw [dataEventStep, if_pos ⟨hon, hst, hen⟩]
  have hframe := composeSeq_eq_frame s (c := .data) (by decide)
  refine ⟨fun hslot => ?_, fun hinfl hscls => ?_⟩
  · have hfree : (newTxn .data s).seq.infl = false := by
      rcases hslot with h | h <;> simp [newTxn_eq, h]
    rw [hexec, arbitrationPriority _ .data (by simpa using hon) hfree (by simp [newTxn_txn])
      (.inr ⟨by decide, by simpa using hst, by simp, by simp⟩)]
    simp only [newTxn_eq, hframe]
    rfl
  · have hheld : (newTxn .data s).seq.infl = true := by simp [newTxn_eq, hinfl, hscls]
    rw [hexec, endOfStep_of_quiet (quiet_of_infl hheld)]
    have hkeep : decide (s.seq.scls ≠ .data) = true := decide_eq_true hscls
    simp only [newTxn_eq, hframe, hinfl, hkeep]
    rfl

/-! ### UNASSIGN (R123) -/

/-- The work of UNASSIGN in full (R123, R131). -/
theorem unassignWork_eq (s : State) :
    unassignWork s = { s with
      host := { s.host with addr := s.cfg.unassigned }
      seq :=
        { astate := .unassigned
          txn := ⟨s.seq.txn.id.cleared, s.seq.txn.req.cleared, s.seq.txn.wd.cleared, s.seq.txn.data.cleared⟩
          infl := false, scls := .id, wcnt := 0 }
      out := { s.out with nvlog := s.out.nvlog ++ [s.cfg.unassigned] } } := by
  rw [unassignWork, cancelAll_eq]
  rfl

theorem unassignWork_txn (s : State) (c : MsgClass) : (unassignWork s).txn c = (s.txn c).cleared := by
  rw [unassignWork_eq]
  cases c <;> rfl

/-- Settles O30: nothing is due after CancelAll(), so the end of the step sends nothing. -/
theorem unassignClearsEverything : Obligations.UnassignClearsEverything := by
  intro s
  have hexec : exec .unassign s = .next (endOfStep (unassignWork s)) := congrArg _ (unassignStep_eq s)
  have hquiet : Quiet (unassignWork s) := quiet_of_not_pend fun c => by rw [unassignWork_txn]; rfl
  rw [endOfStep_of_quiet hquiet] at hexec
  refine ⟨_, hexec, ?_, ?_, ?_, ?_, ?_, unassignWork_txn s, ?_, ?_, ?_, ?_, ?_⟩
  all_goals
    rw [unassignWork_eq]
    rfl

/-! ### Ignored events (R111, R115, R122, R194, R195) -/

/-- A disabled receiver discards a stretch of the wire, and the end of each step has nothing to do (R194). -/
theorem receiveBytes_of_disabled {s : State} (hs : Settled s) (hoff : s.host.ctrl.rxEn = false) (bs : List Byte) :
    receiveBytes bs s = s := by
  induction bs with
  | nil => rfl
  | cons b bs ih =>
    calc receiveBytes (b :: bs) s = receiveBytes bs (rxByteStep b s) := rfl
      _ = receiveBytes bs s := by rw [rxByteStep, receiveByte_of_disabled b hoff, endOfStep_of_settled hs]
      _ = s := ih

/-- Whatever comes from the wire is a stretch of bytes to the receiver, one byte for an RxByte event (R96). -/
theorem FromWire.exec_eq {i : Instr} (h : FromWire i) (s : State) :
    ∃ bs, exec i s = .next (receiveBytes bs s) ∧ ∀ b, i = .rxByte b → bs = [b] := by
  cases i with
  | idReq | idResp | reqReq | reqResp | wdReq | wdResp | dataReq | dataResp | unknownType =>
    exact ⟨_, rfl, fun _ hb => by cases hb⟩
  | rxByte b => exact ⟨[b], rfl, fun _ hb => by cases hb; rfl⟩
  | _ =>
    rcases h with ⟨_, hi⟩ | ⟨_, hi⟩ | ⟨_, _, hi⟩
    all_goals cases hi

/-- Settles O27: in each case the event's work is nothing, and a settled state has nothing left for the end of the step. -/
theorem ignoredEventsChangeNothing : Obligations.IgnoredEventsChangeNothing := by
  intro s hs
  have hend := endOfStep_of_settled hs
  refine ⟨fun h => ?_, fun h => ?_, fun h => ?_, fun h i hi => ?_, fun h => ?_⟩
  · change Host.Outcome.next (triggerStep s) = _
    rw [triggerStep, if_neg, hend]
    rintro ⟨hon, hst⟩
    simp [hon, hst] at h
  · change Host.Outcome.next (dataEventStep s) = _
    rw [dataEventStep, if_neg, hend]
    rintro ⟨hon, hst, hen⟩
    simp [hon, hst, hen] at h
  · change Host.Outcome.next (tickStep s) = _
    rw [tickStep, h, if_neg Bool.false_ne_true, hend]
  · obtain ⟨bs, he, -⟩ := hi.exec_eq s
    rw [he, receiveBytes_of_disabled hs h]
  · have hnone : receiveByte 0x0D s = s := by simp [receiveByte, h, startFrame]
    change Host.Outcome.next (rxByteStep 0x0D s) = _
    rw [rxByteStep, hnone, hend]

end Sys2Proof.Machine

/-! SUPPORT. What a CTRL write does to the transactions (spec/40_sequencer.md R124, R125; spec/44_host_interface.md R222). -/
namespace Sys2Proof.Machine
open Sys2Proof

/-! ### CTRL and the enables (R24, R222) -/

/-- CTRL reads back the six bits a write stores (R24, R222). -/
theorem ctrlOf_toBits (v : Word) : (ctrlOf v).toBits.setWidth 32 = v &&& 0x3F := by
  have hbits : (ctrlOf v).toBits = v.setWidth 6 := by
    obtain ⟨hseq, hrx, hbe, hreq, hwd, hdata⟩ := ctrl_toBits_fields (ctrlOf v)
    apply BitVec.eq_of_getLsbD_eq
    intro i hi
    rw [BitVec.getLsbD_setWidth, decide_eq_true hi, Bool.true_and]
    obtain rfl | rfl | rfl | rfl | rfl | rfl : i = 0 ∨ i = 1 ∨ i = 2 ∨ i = 3 ∨ i = 4 ∨ i = 5 := by omega
    · exact hseq.bit
    · exact hrx.bit
    · exact hbe.bit
    · exact hreq.bit
    · exact hwd.bit
    · exact hdata.bit
  rw [hbits]
  apply BitVec.eq_of_toNat_eq
  simp only [BitVec.toNat_setWidth, BitVec.toNat_and]
  have hmask : v.toNat &&& (0x3F : Word).toNat = v.toNat % 2 ^ 6 := Nat.and_two_pow_sub_one_eq_mod v.toNat 6
  rw [hmask]
  omega

@[simp] theorem seqTransition_table (old new : Ctrl) (s : State) : (seqTransition old new s).table = s.table := by
  unfold seqTransition
  simp only [seqDisable, cancelAll_eq]
  split
  · split <;> rfl
  · rfl

@[simp] theorem rxTransition_table (old new : Ctrl) (s : State) : (rxTransition old new s).table = s.table := by
  unfold rxTransition
  split <;> rfl

@[simp] theorem classTransition_table (old new : Ctrl) (s : State) (c : MsgClass) :
    (classTransition old new s c).table = s.table := by
  unfold classTransition
  split
  · rw [clearPcnt_endTxn_eq, State.setSeq_table]
  · rfl

@[simp] theorem ctrlWrite_table (v : Word) (s : State) : (ctrlWrite v s).table = s.table := by
  simp [ctrlWrite_eq, classTransitions]

/-- The end of a step moves TXLOG and IRQ and no other output (R114, R233). -/
theorem endOfStep_out (s : State) :
    (endOfStep s).out = { s.out with txlog := (endOfStep s).out.txlog, irq := irqLevel s.host } := by
  rcases arbitrate_cases s with ⟨h, -⟩ | ⟨c, -, -, -, h⟩
  all_goals
    rw [endOfStep, h]
    rfl

/-- What a CTRL write, and the end of its step, leave of the host registers, the table, the receiver and the outputs (R202,
R222). -/
theorem endOfStep_ctrlWrite_frame (v : Word) (s : State) :
    let t := endOfStep (ctrlWrite v s)
    readReg t .ctrl = v &&& 0x3F ∧ t.host = { s.host with ctrl := t.host.ctrl } ∧ t.table = s.table ∧
    t.frx = (if s.host.ctrl.rxEn = true ∧ v.getLsbD 1 = false
      then { s.frx with rxs := .idle, rn := 0, rsd := false } else s.frx) ∧
    t.out = { s.out with txlog := t.out.txlog, irq := s.host.intstat &&& s.host.inten != 0 } := by
  intro t
  have hhost : t.host = { s.host with ctrl := ctrlOf v } := by rw [endOfStep_host, ctrlWrite_host]
  refine ⟨?_, by rw [hhost], by rw [endOfStep_table, ctrlWrite_table], (endOfStep_frx _).trans (ctrlWrite_frx v s), ?_⟩
  · change t.host.ctrl.toBits.setWidth 32 = _
    rw [hhost, ctrlOf_toBits]
  · have hout := endOfStep_out (ctrlWrite v s)
    rwa [ctrlWrite_out, ctrlWrite_host] at hout

/-! ### No enable falls -/

/-- A CTRL write under which no enable falls stores CTRL and does nothing else (R222). -/
theorem ctrlWrite_of_no_fall {v : Word} {s : State} (hrx : ¬ (s.host.ctrl.rxEn = true ∧ (ctrlOf v).rxEn = false))
    (hstays : ∀ c, ¬ EnableFalls s.host.ctrl (ctrlOf v) c) :
    ctrlWrite v s = s.setHost { s.host with ctrl := ctrlOf v } := by
  have hclass (t : State) (c : MsgClass) : classTransition s.host.ctrl (ctrlOf v) t c = t :=
    if_neg (not_or.mp (hstays c)).2
  have hseq (t : State) : seqTransition s.host.ctrl (ctrlOf v) t = t := if_neg (not_or.mp (hstays .id)).1
  have hrx' (t : State) : rxTransition s.host.ctrl (ctrlOf v) t = t := if_neg hrx
  simp only [ctrlWrite_eq, classTransitions, List.foldl_cons, List.foldl_nil, hclass, hseq, hrx']

/-- Settles O50: nothing falls, so CTRL alone is stored; SEQ_EN that rises finds no transaction that could be sent. -/
theorem ctrlWriteRaisingEnables : Obligations.CtrlWriteRaisingEnables := by
  intro s v hs hseq hrx hen hinv
  have hstays (c : MsgClass) : ¬ EnableFalls s.host.ctrl (ctrlOf v) c := by
    rintro (⟨hold, hnew⟩ | ⟨hold, hnew⟩)
    · exact Bool.false_ne_true (hnew.symm.trans (hseq hold))
    · exact Bool.false_ne_true (hnew.symm.trans (hen c hold))
  have hrx' : ¬ (s.host.ctrl.rxEn = true ∧ (ctrlOf v).rxEn = false) :=
    fun ⟨hold, hnew⟩ => Bool.false_ne_true (hnew.symm.trans (hrx hold))
  have hquiet : Quiet (s.setHost { s.host with ctrl := ctrlOf v }) := by
    cases hon : s.host.ctrl.seqEn with
    | true => exact fun _ hfree => hs.arbitrated hon hfree
    | false => exact quiet_of_not_pend fun c => ((hinv.classInv c).idle ((hinv.seq_off hon).2 c).1).1
  change Host.Outcome.next (endOfStep (ctrlWrite v s)) = _
  rw [ctrlWrite_of_no_fall hrx' hstays, endOfStep_of_quiet hquiet]
  have hirq : irqLevel { s.host with ctrl := ctrlOf v } = s.out.irq := hs.irq.symm
  simp only [State.setHost_host, State.setHost_out, hirq]
  rfl

/-! ### SEQ_EN falls (R124) -/

/-- A class enable that falls leaves a free slot as it is (R125). -/
theorem classTransition_slot_of_free (old new : Ctrl) {s : State} (c : MsgClass)
    (h : s.seq.infl = false ∧ s.seq.scls = .id ∧ s.seq.wcnt = 0) :
    (classTransition old new s c).seq.infl = false ∧ (classTransition old new s c).seq.scls = .id ∧
    (classTransition old new s c).seq.wcnt = 0 := by
  unfold classTransition
  split
  · obtain ⟨hinfl, hscls, hwcnt⟩ := h
    rw [clearPcnt_endTxn_eq]
    exact ⟨by simp [hinfl], hscls, hwcnt⟩
  · exact h

/-- SEQ_EN that falls frees the slot for good (R123, R124). -/
theorem ctrlWrite_slot_of_seqEn_falls {v : Word} {s : State} (h : s.host.ctrl.seqEn = true ∧ (ctrlOf v).seqEn = false) :
    (ctrlWrite v s).seq.infl = false ∧ (ctrlWrite v s).seq.scls = .id ∧ (ctrlWrite v s).seq.wcnt = 0 := by
  rw [ctrlWrite_eq]
  simp only [classTransitions, List.foldl_cons, List.foldl_nil]
  refine classTransition_slot_of_free _ _ _ (classTransition_slot_of_free _ _ _ (classTransition_slot_of_free _ _ _ ?_))
  rw [rxTransition_seq, seqTransition, if_pos h]
  simp only [seqDisable, cancelAll_eq]
  split <;> exact ⟨rfl, rfl, rfl⟩

/-- Settles O51: every class's enable falls with SEQ_EN, and nothing due is left for the end of the step. -/
theorem sequencerDisableCancels : Obligations.SequencerDisableCancels := by
  intro s v hon hoff
  have hfall : s.host.ctrl.seqEn = true ∧ (ctrlOf v).seqEn = false := ⟨hon, hoff⟩
  have htxn (c : MsgClass) : (ctrlWrite v s).txn c = (s.txn c).cleared := ctrlWrite_txn_of_falls (.inl hfall)
  have hquiet : Quiet (ctrlWrite v s) := quiet_of_not_pend fun c => by rw [htxn]; rfl
  have hend := endOfStep_of_quiet hquiet
  obtain ⟨hread, hhost, htable, hfrx, hout⟩ := endOfStep_ctrlWrite_frame v s
  obtain ⟨hinfl, hscls, hwcnt⟩ := ctrlWrite_slot_of_seqEn_falls hfall
  refine ⟨endOfStep (ctrlWrite v s), rfl, hread, hhost, fun c => ?_, ?_, ?_, ?_, ?_, hfrx, htable, ?_⟩
  · rw [hend]
    exact htxn c
  · rwa [hend]
  · rwa [hend]
  · rwa [hend]
  · rw [endOfStep_seq, arbitrate_astate, ctrlWrite_astate]
    simp only [hfall, and_self, true_and]
  · rw [hout, hend, State.setOut_out, ctrlWrite_out]

/-! ### A class enable falls (R125) -/

/-- What arbitration can do to one class: nothing, or its frame is sent (R114). -/
theorem arbitrate_txn_cases (s : State) (c : MsgClass) :
    (arbitrate s).txn c = s.txn c ∨
    (arbitrate s).txn c =
      { s.txn c with pend := false, sent := true, elap := if (s.txn c).sent then (s.txn c).elap else 0 } := by
  rcases arbitrate_cases s with ⟨he, -⟩ | ⟨k, -, -, -, he⟩
  · exact .inl (by rw [he])
  · rw [he, grant_txn]
    split
    · next hck => exact .inr (by rw [hck])
    · exact .inl rfl

/-- Arbitration ends no transaction and starts none, takes no snapshot and counts no period (R114). -/
theorem arbitrate_txn_kept (s : State) (c : MsgClass) :
    ((arbitrate s).txn c).active = (s.txn c).active ∧ ((arbitrate s).txn c).tf = (s.txn c).tf ∧
    ((arbitrate s).txn c).pcnt = (s.txn c).pcnt := by
  rcases arbitrate_txn_cases s c with he | he
  all_goals
    rw [he]
    exact ⟨rfl, rfl, rfl⟩

/-- Settles O52: the class has nothing due any more, so the end of the step cannot send it, and it ends no other class's
transaction. -/
theorem classDisableEndsTransaction : Obligations.ClassDisableEndsTransaction := by
  intro s v c _ hold hnew
  have hfall : EnableFalls s.host.ctrl (ctrlOf v) c := .inr ⟨hold, hnew⟩
  have htxn : (ctrlWrite v s).txn c = (s.txn c).cleared := ctrlWrite_txn_of_falls hfall
  obtain ⟨harb, hslot⟩ := arbitrate_of_not_pend (s := ctrlWrite v s) (c := c) (by rw [htxn]; rfl)
  have hcleared : (endOfStep (ctrlWrite v s)).txn c = (s.txn c).cleared := (endOfStep_txn _ c).trans (harb.trans htxn)
  obtain ⟨hread, hhost, htable, hfrx, hout⟩ := endOfStep_ctrlWrite_frame v s
  refine ⟨endOfStep (ctrlWrite v s), rfl, hread, hhost, htable, hfrx, hout, by rw [hcleared]; rfl, by rw [hcleared]; rfl,
    by rw [hcleared]; rfl, by rw [hcleared]; rfl, fun hinfl hscls => ?_, fun hseq k hk => ?_⟩
  · exact ((hasSlot_ctrlWrite v s c).mp (hslot.mp ⟨hinfl, hscls⟩)).2 hfall
  · have hstays : ¬ EnableFalls s.host.ctrl (ctrlOf v) k := by
      rintro (⟨hon, hoff⟩ | ⟨-, hoff⟩)
      · exact Bool.false_ne_true (hoff.symm.trans (hseq hon))
      · exact Bool.false_ne_true (hoff.symm.trans hk)
    have hkept := arbitrate_txn_kept (ctrlWrite v s) k
    rwa [ctrlWrite_txn_of_stays hstays] at hkept

end Sys2Proof.Machine

/-! SUPPORT. A Tick (spec/40_sequencer.md R115 to R118): what its clocks do to each class, when a period ends, and when a wait
runs out. -/
namespace Sys2Proof.Machine
open Sys2Proof

/-! ### The cadence (R116) -/

/-- Class `c` counts this Tick (R116). -/
def Counts (s : State) (c : MsgClass) : Prop := s.seq.astate = .assigned ∧ s.host.ctrl.en c = true ∧ s.period c ≠ 0

/-- The period of class `c` ends with this Tick (R116). -/
def PeriodEnds (s : State) (c : MsgClass) : Prop := Counts s c ∧ (s.period c).toNat ≤ (s.txn c).pcnt.toNat + 1

/-- A period is reached by the saturated count as by the true one: it fits the counter (R116). -/
theorem le_satInc_iff {p n : BitVec 16} : p ≤ satInc n ↔ p.toNat ≤ n.toNat + 1 := by
  have hp := p.isLt
  rw [BitVec.le_def, satInc_toNat]
  omega

/-- ID and DATA have no period (R38). -/
theorem not_counts {s : State} {c : MsgClass} (hc : c = .id ∨ c = .data) : ¬ Counts s c := by
  rintro ⟨-, -, hp⟩
  rcases hc with rfl | rfl <;> exact hp rfl

/-- At the end of its period a class starts a transaction (R116). -/
theorem PeriodEnds.cadence {s : State} {c : MsgClass} (h : PeriodEnds s c) : cadence c s = newTxn c (clearPcnt c s) := by
  obtain ⟨hcounts, hle⟩ := h
  rcases cadence_cases c s with ⟨-, hno⟩ | ⟨-, -, -, ⟨hlt, -⟩ | ⟨-, he⟩⟩
  · exact absurd hcounts hno
  · exact absurd (le_satInc_iff.mpr hle) (BitVec.not_le.mpr hlt)
  · exact he

/-- The count a Tick leaves in class `c` where its period does not end: one more, or the same (R116). -/
def CountedTo (s : State) (c : MsgClass) (n : BitVec 16) : Prop :=
  (Counts s c → n = satInc (s.txn c).pcnt) ∧ (¬ Counts s c → n = (s.txn c).pcnt)

/-- Before the end of its period a class counts, or it does nothing at all (R116). -/
theorem cadence_of_not_periodEnds {s : State} {c : MsgClass} (h : ¬ PeriodEnds s c) :
    ∃ n, CountedTo s c n ∧ cadence c s = s.setTxn c { s.txn c with pcnt := n } := by
  rcases cadence_cases c s with ⟨he, hno⟩ | ⟨hst, hen, hper, ⟨-, he⟩ | ⟨hle, -⟩⟩
  · refine ⟨(s.txn c).pcnt, ⟨fun hc => absurd hc hno, fun _ => rfl⟩, he.trans ?_⟩
    cases c <;> rfl
  · exact ⟨_, ⟨fun _ => rfl, fun hno => absurd ⟨hst, hen, hper⟩ hno⟩, he⟩
  · exact absurd ⟨⟨hst, hen, hper⟩, le_satInc_iff.mp hle⟩ h

@[simp] theorem newTxn_table (c : MsgClass) (s : State) : (newTxn c s).table = s.table := by simp [newTxn_eq]
@[simp] theorem newTxn_frx (c : MsgClass) (s : State) : (newTxn c s).frx = s.frx := by simp [newTxn_eq]
@[simp] theorem newTxn_wcnt (c : MsgClass) (s : State) : (newTxn c s).seq.wcnt = s.seq.wcnt := by simp [newTxn_eq]
@[simp] theorem newTxn_scls (c : MsgClass) (s : State) : (newTxn c s).seq.scls = s.seq.scls := by simp [newTxn_eq]

section Cadence
variable (c : MsgClass) (s : State)

@[simp] theorem cadence_table : (cadence c s).table = s.table := by
  rcases cadence_cases c s with ⟨h, -⟩ | ⟨-, -, -, ⟨-, h⟩ | ⟨-, h⟩⟩ <;> simp [h, clearPcnt]

@[simp] theorem cadence_frx : (cadence c s).frx = s.frx := by
  rcases cadence_cases c s with ⟨h, -⟩ | ⟨-, -, -, ⟨-, h⟩ | ⟨-, h⟩⟩ <;> simp [h, clearPcnt]

@[simp] theorem cadence_astate : (cadence c s).seq.astate = s.seq.astate := by
  rcases cadence_cases c s with ⟨h, -⟩ | ⟨-, -, -, ⟨-, h⟩ | ⟨-, h⟩⟩ <;> simp [h, clearPcnt]

@[simp] theorem cadence_wcnt : (cadence c s).seq.wcnt = s.seq.wcnt := by
  rcases cadence_cases c s with ⟨h, -⟩ | ⟨-, -, -, ⟨-, h⟩ | ⟨-, h⟩⟩ <;> simp [h, clearPcnt]

@[simp] theorem cadence_scls : (cadence c s).seq.scls = s.seq.scls := by
  rcases cadence_cases c s with ⟨h, -⟩ | ⟨-, -, -, ⟨-, h⟩ | ⟨-, h⟩⟩ <;> simp [h, clearPcnt]

end Cadence

/-- The cadence of one class leaves the transaction of every other class, and its hold on the slot (R116). -/
theorem cadence_of_ne {c k : MsgClass} (h : k ≠ c) (s : State) :
    (cadence c s).txn k = s.txn k ∧ (HasSlot (cadence c s) k ↔ HasSlot s k) := by
  rcases cadence_cases c s with ⟨he, -⟩ | ⟨-, -, -, ⟨-, he⟩ | ⟨-, he⟩⟩
  · simp [he]
  · simp [he, State.txn_setTxn, h]
  · simp [he, newTxn_txn, clearPcnt, State.txn_setTxn, h]

/-- The snapshot depends on the configuration and the host registers only (R113). -/
theorem composeSeq_congr {s t : State} (hcfg : t.cfg = s.cfg) (hhost : t.host = s.host) (c : MsgClass) :
    composeSeq t c = composeSeq s c := by
  cases c <;> simp only [composeSeq, composeSeq.seqBatt, hcfg, hhost]

/-- Whether a class counts, and its count, are untouched by the cadence of another class (R116). -/
theorem counts_cadence_of_ne {c k : MsgClass} (h : k ≠ c) (s : State) :
    (Counts (cadence c s) k ↔ Counts s k) ∧ (PeriodEnds (cadence c s) k ↔ PeriodEnds s k) := by
  have hperiod : (cadence c s).period k = s.period k := by cases k <;> simp [State.period]
  simp only [PeriodEnds, Counts, cadence_astate, cadence_host, hperiod, (cadence_of_ne h s).1, and_self]

/-- A class starts its transaction in CadenceStep() where its period ends, whatever the other one does (R112, R116). -/
theorem PeriodEnds.cadenceStep {s : State} {c : MsgClass} (h : PeriodEnds s c) :
    (cadenceStep s).txn c =
      { active := true, pend := true, sent := false, elap := 0, tf := composeSeq s c, pcnt := 0 } ∧
    ¬ HasSlot (cadenceStep s) c := by
  have hstart {u : State} (hcfg : u.cfg = s.cfg) (hhost : u.host = s.host) (hu : PeriodEnds u c) :
      (Machine.cadence c u).txn c =
        { active := true, pend := true, sent := false, elap := 0, tf := composeSeq s c, pcnt := 0 } ∧
      ¬ HasSlot (Machine.cadence c u) c := by
    rw [hu.cadence, composeSeq_congr (hcfg.symm) (hhost.symm)]
    simp [newTxn_txn, clearPcnt, composeSeq_congr (s := u) (t := u.setTxn c _) rfl rfl]
  cases c with
  | id => exact absurd h.1 (not_counts (.inl rfl))
  | data => exact absurd h.1 (not_counts (.inr rfl))
  | req =>
    obtain ⟨htxn, hslot⟩ := cadence_of_ne (c := .wd) (k := .req) (by decide) (Machine.cadence .req s)
    rw [Machine.cadenceStep, htxn, hslot]
    exact hstart rfl rfl h
  | wd => exact hstart (by simp) (by simp) ((counts_cadence_of_ne (by decide) s).2.mpr h)

/-- CadenceStep() at most moves the count of a class whose period does not end (R116). -/
theorem cadenceStep_of_not_periodEnds {s : State} {c : MsgClass} (h : ¬ PeriodEnds s c) :
    ∃ n, CountedTo s c n ∧ (cadenceStep s).txn c = { s.txn c with pcnt := n } ∧
      (HasSlot (cadenceStep s) c ↔ HasSlot s c) := by
  have hreq := cadence_of_ne (c := .req) (k := c) (s := s)
  have hwd := cadence_of_ne (c := .wd) (k := c) (s := cadence .req s)
  cases c with
  | id | data =>
    obtain ⟨htxn, hslot⟩ := hreq (by decide)
    obtain ⟨htxn', hslot'⟩ := hwd (by decide)
    exact ⟨_, ⟨fun hc => absurd hc (not_counts (by decide)), fun _ => rfl⟩, htxn'.trans htxn, hslot'.trans hslot⟩
  | req =>
    obtain ⟨htxn', hslot'⟩ := hwd (by decide)
    obtain ⟨n, hn, he⟩ := cadence_of_not_periodEnds h
    refine ⟨n, hn, htxn'.trans ?_, hslot'.trans ?_⟩
    · rw [he, State.txn_setTxn_self]
    · rw [he, hasSlot_setTxn]
  | wd =>
    obtain ⟨htxn, hslot⟩ := hreq (by decide)
    obtain ⟨hcounts, hends⟩ := counts_cadence_of_ne (c := .req) (k := .wd) (by decide) s
    obtain ⟨n, hn, he⟩ := cadence_of_not_periodEnds (mt hends.mp h)
    rw [CountedTo, hcounts, htxn] at hn
    refine ⟨n, hn, ?_, ?_⟩
    · rw [cadenceStep, he, State.txn_setTxn_self, htxn]
    · rw [cadenceStep, he, hasSlot_setTxn, hslot]

/-! ### The clocks before the wait: cadence and elapsed time (R115 to R117) -/

/-- A Tick before its WaitStep() (R115). -/
def clocked (s : State) : State := elapsedStep (cadenceStep s)

theorem tickWork_eq (s : State) : tickWork s = waitStep (clocked s) := rfl

/-- ElapsedStep() ages every class's transaction (R117). -/
theorem elapsedStep_txn (s : State) (c : MsgClass) : (elapsedStep s).txn c = (s.txn c).aged := by
  rw [elapsedStep_eq]
  cases c <;> rfl

section Clocked
variable (s : State)

@[simp] theorem clocked_host : (clocked s).host = s.host := by simp [clocked, elapsedStep_eq, cadenceStep]
@[simp] theorem clocked_table : (clocked s).table = s.table := by simp [clocked, elapsedStep_eq, cadenceStep]
@[simp] theorem clocked_frx : (clocked s).frx = s.frx := by simp [clocked, elapsedStep_eq, cadenceStep]
@[simp] theorem clocked_out : (clocked s).out = s.out := by simp [clocked, cadenceStep]
@[simp] theorem clocked_astate : (clocked s).seq.astate = s.seq.astate := by simp [clocked, elapsedStep_eq, cadenceStep]
@[simp] theorem clocked_scls : (clocked s).seq.scls = s.seq.scls := by simp [clocked, elapsedStep_eq, cadenceStep]
@[simp] theorem clocked_wcnt : (clocked s).seq.wcnt = s.seq.wcnt := by simp [clocked, elapsedStep_eq, cadenceStep]

theorem hasSlot_clocked (c : MsgClass) : HasSlot (clocked s) c ↔ HasSlot (cadenceStep s) c := by
  rw [clocked, elapsedStep_eq]
  exact Iff.rfl

end Clocked

/-- A transaction started by its period has not been sent, so it does not age yet (R116, R117). -/
theorem PeriodEnds.clocked {s : State} {c : MsgClass} (h : PeriodEnds s c) :
    (clocked s).txn c =
      { active := true, pend := true, sent := false, elap := 0, tf := composeSeq s c, pcnt := 0 } ∧
    ¬ HasSlot (clocked s) c := by
  obtain ⟨htxn, hslot⟩ := h.cadenceStep
  refine ⟨?_, by rwa [hasSlot_clocked]⟩
  rw [Machine.clocked, elapsedStep_txn, htxn]
  rfl

/-- Where its period does not end, a class counts and its transaction ages (R116, R117). -/
theorem clocked_of_not_periodEnds {s : State} {c : MsgClass} (h : ¬ PeriodEnds s c) :
    ∃ n, CountedTo s c n ∧ (clocked s).txn c = ({ s.txn c with pcnt := n } : Txn).aged ∧
      (HasSlot (clocked s) c ↔ HasSlot s c) := by
  obtain ⟨n, hn, htxn, hslot⟩ := cadenceStep_of_not_periodEnds h
  exact ⟨n, hn, by rw [clocked, elapsedStep_txn, htxn], (hasSlot_clocked s c).trans hslot⟩

/-! ### The wait (R117, R118) -/

/-- The wait of the request in flight one Tick longer (R117). -/
def State.waited (s : State) : State := s.setSeq { s.seq with wcnt := satInc s.seq.wcnt }

@[simp] theorem State.waited_host (s : State) : s.waited.host = s.host := rfl
@[simp] theorem State.waited_table (s : State) : s.waited.table = s.table := rfl
@[simp] theorem State.waited_frx (s : State) : s.waited.frx = s.frx := rfl
@[simp] theorem State.waited_out (s : State) : s.waited.out = s.out := rfl
@[simp] theorem State.waited_astate (s : State) : s.waited.seq.astate = s.seq.astate := rfl
@[simp] theorem State.waited_wcnt (s : State) : s.waited.seq.wcnt = satInc s.seq.wcnt := rfl
@[simp] theorem State.waited_txn (s : State) (c : MsgClass) : s.waited.txn c = s.txn c := rfl
@[simp] theorem hasSlot_waited (s : State) (c : MsgClass) : HasSlot s.waited c ↔ HasSlot s c := Iff.rfl

/-- What WaitStep() can do: nothing while the slot is free, one more Tick of the wait, or its expiry (R117). -/
theorem waitStep_cases (s : State) :
    (s.seq.infl = false ∧ waitStep s = s) ∨
    (s.seq.infl = true ∧ s.seq.wcnt.toNat + 1 < (s.wait s.seq.scls).toNat ∧ waitStep s = s.waited) ∨
    (s.seq.infl = true ∧ (s.wait s.seq.scls).toNat ≤ s.seq.wcnt.toNat + 1 ∧ waitStep s = expire s.seq.scls s.waited) := by
  cases hi : s.seq.infl with
  | false => exact .inl ⟨rfl, by simp [waitStep, hi]⟩
  | true =>
    have hstep : waitStep s =
        if s.wait s.seq.scls ≤ satInc s.seq.wcnt then expire s.seq.scls s.waited else s.waited := by
      rw [waitStep, if_pos hi]
      rfl
    by_cases hle : s.wait s.seq.scls ≤ satInc s.seq.wcnt
    · exact .inr (.inr ⟨rfl, le_satInc_iff.mp hle, hstep.trans (if_pos hle)⟩)
    · exact .inr (.inl ⟨rfl, Nat.lt_of_not_le (mt le_satInc_iff.mpr hle), hstep.trans (if_neg hle)⟩)

/-- A transaction ended (R121). -/
def Txn.ended (t : Txn) : Txn := { t with active := false, pend := false, sent := false, elap := 0 }

@[simp] theorem endTxn_table (c : MsgClass) (s : State) : (endTxn c s).table = s.table := by simp [endTxn_eq]
@[simp] theorem endTxn_frx (c : MsgClass) (s : State) : (endTxn c s).frx = s.frx := by simp [endTxn_eq]

section Expire
variable (c : MsgClass) (s : State)

@[simp] theorem expire_table : (expire c s).table = s.table := by
  rcases expire_cases c s with ⟨-, h⟩ | ⟨-, -, h⟩ | ⟨-, -, h⟩ <;> simp [h]

@[simp] theorem expire_frx : (expire c s).frx = s.frx := by
  rcases expire_cases c s with ⟨-, h⟩ | ⟨-, -, h⟩ | ⟨-, -, h⟩ <;> simp [h]

@[simp] theorem expire_addr : (expire c s).host.addr = s.host.addr := by
  rcases expire_cases c s with ⟨-, h⟩ | ⟨-, -, h⟩ | ⟨-, -, h⟩ <;> simp [h]

@[simp] theorem expire_ctrl : (expire c s).host.ctrl = s.host.ctrl := by
  rcases expire_cases c s with ⟨-, h⟩ | ⟨-, -, h⟩ | ⟨-, -, h⟩ <;> simp [h]

/-- An expired wait frees the slot (R118). -/
@[simp] theorem expire_infl : (expire c s).seq.infl = false := by
  rcases expire_cases c s with ⟨-, h⟩ | ⟨-, -, h⟩ | ⟨-, -, h⟩ <;> simp [h, endTxn_eq]

/-- Expire(c) makes the resend of class `c` due or ends its transaction (R118). -/
theorem expire_txn_self :
    (expire c s).txn c = { s.txn c with pend := true } ∨ (expire c s).txn c = (s.txn c).ended := by
  rcases expire_cases c s with ⟨-, h⟩ | ⟨-, -, h⟩ | ⟨-, -, h⟩
  · exact .inl (by simp [h])
  · exact .inr (by simp [h, endTxn_txn, Txn.ended])
  · exact .inr (by simp [h, endTxn_txn, Txn.ended])

/-- Expire(c) leaves the other classes' transactions (R118). -/
theorem expire_txn_of_ne {k : MsgClass} (hk : k ≠ c) : (expire c s).txn k = s.txn k := by
  rcases expire_cases c s with ⟨-, h⟩ | ⟨-, -, h⟩ | ⟨-, -, h⟩ <;> simp [h, endTxn_txn, State.txn_setTxn, hk]

end Expire

section Wait
variable (s : State)

@[simp] theorem waitStep_table : (waitStep s).table = s.table := by
  rcases waitStep_cases s with ⟨-, h⟩ | ⟨-, -, h⟩ | ⟨-, -, h⟩ <;> simp [h]

@[simp] theorem waitStep_frx : (waitStep s).frx = s.frx := by
  rcases waitStep_cases s with ⟨-, h⟩ | ⟨-, -, h⟩ | ⟨-, -, h⟩ <;> simp [h]

@[simp] theorem waitStep_addr : (waitStep s).host.addr = s.host.addr := by
  rcases waitStep_cases s with ⟨-, h⟩ | ⟨-, -, h⟩ | ⟨-, -, h⟩ <;> simp [h]

@[simp] theorem waitStep_ctrl : (waitStep s).host.ctrl = s.host.ctrl := by
  rcases waitStep_cases s with ⟨-, h⟩ | ⟨-, -, h⟩ | ⟨-, -, h⟩ <;> simp [h]

/-- WaitStep() leaves a class's transaction, makes its resend due, or ends it (R117, R118). -/
theorem waitStep_txn_cases (c : MsgClass) :
    (waitStep s).txn c = s.txn c ∨ (waitStep s).txn c = { s.txn c with pend := true } ∨
    (waitStep s).txn c = (s.txn c).ended := by
  rcases waitStep_cases s with ⟨-, h⟩ | ⟨-, -, h⟩ | ⟨-, -, h⟩
  · exact .inl (by rw [h])
  · exact .inl (by rw [h, State.waited_txn])
  · rw [h]
    by_cases hc : c = s.seq.scls
    · rw [hc]
      exact .inr (expire_txn_self _ _)
    · exact .inl (expire_txn_of_ne _ _ hc)

/-- WaitStep() leaves a class that does not hold the slot, and does not give it the slot (R117). -/
theorem waitStep_of_not_hasSlot {c : MsgClass} (hslot : ¬ HasSlot s c) :
    (waitStep s).txn c = s.txn c ∧ ¬ HasSlot (waitStep s) c := by
  rcases waitStep_cases s with ⟨-, h⟩ | ⟨-, -, h⟩ | ⟨hinfl, -, h⟩
  · exact ⟨by rw [h], by rwa [h]⟩
  · exact ⟨by rw [h, State.waited_txn], by rwa [h, hasSlot_waited]⟩
  · have hc : c ≠ s.seq.scls := fun hc => hslot ⟨hinfl, hc.symm⟩
    rw [h]
    exact ⟨expire_txn_of_ne _ _ hc, by simp [HasSlot]⟩

end Wait

/-! ### A whole Tick (R115) -/

/-- A Tick with the sequencer on: its clocks, its wait, and the end of the step (R115). -/
theorem tickStep_of_on {s : State} (hon : s.host.ctrl.seqEn = true) : tickStep s = endOfStep (waitStep (clocked s)) := by
  rw [tickStep_eq, if_pos hon, tickWork_eq]

/-- Of a transaction: its snapshot and its count stay, and while it lives it stays sent, its elapsed time kept. -/
structure Txn.Continues (x y : Txn) : Prop where
  tf : y.tf = x.tf
  pcnt : y.pcnt = x.pcnt
  active : x.active = false → y.active = false
  sent : x.sent = true → y.active = true → y.sent = true ∧ y.elap = x.elap

theorem Txn.Continues.trans {x y z : Txn} (h : x.Continues y) (h' : y.Continues z) : x.Continues z where
  tf := h'.tf.trans h.tf
  pcnt := h'.pcnt.trans h.pcnt
  active hx := h'.active (h.active hx)
  sent hx hz := by
    have hy : y.active = true := by
      by_contra hno
      simp [h'.active (by simpa using hno)] at hz
    obtain ⟨hsent, helap⟩ := h.sent hx hy
    obtain ⟨hsent', helap'⟩ := h'.sent hsent hz
    exact ⟨hsent', helap'.trans helap⟩

/-- WaitStep() and arbitration start no transaction and take no snapshot (R114, R117, R118). -/
theorem continues_waitStep (s : State) (c : MsgClass) : (s.txn c).Continues ((waitStep s).txn c) := by
  rcases waitStep_txn_cases s c with h | h | h
  all_goals rw [h]
  · exact ⟨rfl, rfl, id, fun hs _ => ⟨hs, rfl⟩⟩
  · exact ⟨rfl, rfl, id, fun hs _ => ⟨hs, rfl⟩⟩
  · exact ⟨rfl, rfl, fun _ => rfl, fun _ ha => absurd ha Bool.false_ne_true⟩

theorem continues_arbitrate (s : State) (c : MsgClass) : (s.txn c).Continues ((arbitrate s).txn c) := by
  rcases arbitrate_txn_cases s c with h | h
  all_goals rw [h]
  · exact ⟨rfl, rfl, id, fun hs _ => ⟨hs, rfl⟩⟩
  · exact ⟨rfl, rfl, id, fun hs _ => ⟨rfl, if_pos hs⟩⟩

/-- The elapsed time saturates at 17 bits (R46, R117). -/
theorem satInc_elap (v : BitVec 17) : satInc v = BitVec.ofNat 17 (min (v.toNat + 1) 131071) := by
  apply BitVec.eq_of_toNat_eq
  rw [satInc_toNat, BitVec.toNat_ofNat]
  omega

/-- What a Tick leaves of a class whose period does not end (R116 to R118). -/
theorem tickStep_of_not_periodEnds {s : State} {c : MsgClass} (hon : s.host.ctrl.seqEn = true) (h : ¬ PeriodEnds s c) :
    ∃ n, CountedTo s c n ∧ ({ s.txn c with pcnt := n } : Txn).aged.Continues ((tickStep s).txn c) := by
  obtain ⟨n, hn, htxn, -⟩ := clocked_of_not_periodEnds h
  refine ⟨n, hn, ?_⟩
  rw [tickStep_of_on hon, endOfStep_txn, ← htxn]
  exact (continues_waitStep _ c).trans (continues_arbitrate _ c)

/-- A transaction its period starts is sent in the same step, or stays due: another class holds the slot, or the class is no
longer Allowed (R114, R116). -/
theorem tickStep_of_periodEnds {s : State} {c : MsgClass} (hon : s.host.ctrl.seqEn = true) (h : PeriodEnds s c) :
    let t := tickStep s
    (t.txn c = { active := true, pend := true, sent := false, elap := 0, tf := composeSeq s c, pcnt := 0 } ∧
      (t.seq.astate = .assigned → t.seq.infl = true ∧ t.seq.scls ≠ c)) ∨
    (t.txn c = { active := true, pend := false, sent := true, elap := 0, tf := composeSeq s c, pcnt := 0 } ∧
      t.seq.infl = true ∧ t.seq.scls = c ∧ t.seq.wcnt = 0 ∧ t.out.txlog = s.out.txlog ++ [composeSeq s c]) := by
  have hid : c ≠ .id := fun hc => not_counts (.inl hc) h.1
  obtain ⟨htxn, hslot⟩ := h.clocked
  obtain ⟨hwait, hwslot⟩ := waitStep_of_not_hasSlot (clocked s) hslot
  rw [htxn] at hwait
  simp only [tickStep_of_on hon, endOfStep_txn, endOfStep_seq, endOfStep_txlog]
  rcases arbitrate_cases (waitStep (clocked s)) with ⟨he, hnone⟩ | ⟨k, -, -, -, he⟩
  · rw [he]
    refine .inl ⟨hwait, fun hst => ?_⟩
    have hsend : (waitStep (clocked s)).sendable c = true :=
      sendable_eq_true.mpr ⟨by rw [hwait], allowed_iff.mpr (.inr ⟨hid, hst⟩)⟩
    have hinfl : (waitStep (clocked s)).seq.infl = true := by
      by_contra hfree
      have := hnone (by simpa using hon) (by simpa using hfree) c
      simp [hsend] at this
    exact ⟨hinfl, fun hscls => hwslot ⟨hinfl, hscls⟩⟩
  · rw [he]
    by_cases hck : c = k
    · subst hck
      exact .inr ⟨by simp [grant_txn, hwait], rfl, rfl, rfl, by simp [hwait]⟩
    · exact .inl ⟨by simp [grant_txn, hck, hwait], fun _ => ⟨rfl, by simpa using Ne.symm hck⟩⟩

/-- A period that ends for the class that holds the slot leaves the slot free for the wait (R112, R116). -/
theorem clocked_infl_of_periodEnds {s : State} {c : MsgClass} (h : PeriodEnds s c)
    (hs : s.seq.infl = true → s.seq.scls = c) : (clocked s).seq.infl = false := by
  by_contra hinfl
  have hslot : HasSlot (clocked s) s.seq.scls := ⟨by simpa using hinfl, clocked_scls s⟩
  by_cases hk : PeriodEnds s s.seq.scls
  · exact hk.clocked.2 hslot
  · obtain ⟨n, -, -, hiff⟩ := clocked_of_not_periodEnds hk
    have hc : s.seq.scls = c := hs (hiff.mp hslot).1
    exact hk (hc ▸ h)

/-- Settles O31: by whether the class's period ends with this Tick. -/
theorem periodExpiryStartsTransaction : Obligations.PeriodExpiryStartsTransaction := by
  intro s c hc hon counts due
  have hid : c ≠ .id := by rcases hc with rfl | rfl <;> decide
  have hcounts : counts ↔ Counts s c := by simp only [counts, Counts, period_eq_table s hc]
  have hdue : due ↔ PeriodEnds s c := by simp only [due, PeriodEnds, hcounts, period_eq_table s hc]
  have ht := tickStep_of_on hon
  refine ⟨tickStep s, rfl, by simp [ht], by simp [ht], by simp [ht], by simp [ht], ?_, ?_⟩
  · rw [hdue]
    intro h
    have hhost : (s.seq.infl = true → s.seq.scls = c) → (tickStep s).host = s.host := by
      intro hs
      rcases waitStep_cases (clocked s) with ⟨-, he⟩ | ⟨hinfl, -⟩ | ⟨hinfl, -⟩
      · rw [ht, endOfStep_host, he, clocked_host]
      all_goals simp [clocked_infl_of_periodEnds h hs] at hinfl
    rw [← composeSeq_eq_frame s hid]
    rcases tickStep_of_periodEnds hon h with ⟨htxn, hwaits⟩ | ⟨htxn, hsent⟩
    · rw [htxn]
      exact ⟨rfl, rfl, rfl, .inl ⟨rfl, rfl, hwaits⟩, rfl, hhost⟩
    · rw [htxn]
      exact ⟨rfl, rfl, rfl, .inr ⟨rfl, rfl, hsent⟩, rfl, hhost⟩
  · rw [hdue, hcounts]
    intro h
    obtain ⟨n, ⟨hcount, hstay⟩, hcont⟩ := tickStep_of_not_periodEnds hon h
    refine ⟨by simp [hcont.tf], fun ha => hcont.active (by simpa using ha), fun ha hsent ha' => ?_, fun hcs => ?_,
      fun hno => by simp [hcont.pcnt, hstay hno]⟩
    · obtain ⟨hsent', helap⟩ := hcont.sent (by simpa using hsent) ha'
      refine ⟨hsent', ?_⟩
      rw [helap]
      simp [Txn.aged, ha, hsent, satInc_toNat]
    · have hlt : ¬ (s.period c).toNat ≤ (s.txn c).pcnt.toNat + 1 := fun hle => h ⟨hcs, hle⟩
      have hper := (s.period c).isLt
      rw [hcont.pcnt, Txn.aged_pcnt, hcount hcs, satInc_toNat]
      omega

/-! ### The identification wait (R117, R118, R258) -/

/-- Outside ASSIGNED no class counts, so the clocks move the elapsed times alone (R116, R117). -/
theorem clocked_of_not_assigned {s : State} (hst : s.seq.astate ≠ .assigned) : clocked s = elapsedStep s := by
  have hnone (c : MsgClass) (u : State) (hu : u.seq.astate ≠ .assigned) : cadence c u = u := by
    rcases cadence_cases c u with ⟨he, -⟩ | ⟨hassigned, -⟩
    · exact he
    · exact absurd hassigned hu
  rw [clocked, cadenceStep, hnone .req s hst, hnone .wd s hst]

theorem satInc_wcnt (v : BitVec 16) : satInc v = BitVec.ofNat 16 (min (v.toNat + 1) 65535) := by
  apply BitVec.eq_of_toNat_eq
  rw [satInc_toNat, BitVec.toNat_ofNat]
  omega

/-- ID has no retries, so the end of its wait ends its transaction and returns ASTATE to UNASSIGNED (R40, R118). -/
theorem expire_id {s : State} (h : HasSlot s .id) :
    expire .id s = countEvent .idFail ((endTxn .id s).setAState .unassigned) := by
  rcases expire_cases .id s with ⟨hretry, -⟩ | ⟨-, -, he⟩ | ⟨-, hid, -⟩
  · simp [retryDue, State.retry] at hretry
  · rwa [endTxn_of_slot_freed h] at he
  · exact absurd rfl hid

/-- In UNASSIGNED no class is Allowed (R114). -/
theorem quiet_of_unassigned {s : State} (h : s.seq.astate = .unassigned) : Quiet s := by
  intro _ _ c
  cases c <;> simp [State.sendable, allowed, h]

@[simp] theorem State.setSeq_setSeq (s : State) (q r : Sequencer) : (s.setSeq q).setSeq r = s.setSeq r := rfl

/-- Settles O32: ID never retries, so the wait's end is the end of the transaction, and in UNASSIGNED no class is Allowed. -/
theorem identificationWaitExpires : Obligations.IdentificationWaitExpires := by
  intro s hon hst hinfl hscls hle older
  have holder (x : Txn) : older x = x.aged := by simp only [older, Txn.aged, satInc_elap]
  have hclocked : clocked s = elapsedStep s := clocked_of_not_assigned (by simp [hst])
  have hexpire : waitStep (clocked s) = expire .id (clocked s).waited := by
    rcases waitStep_cases (clocked s) with ⟨hfree, -⟩ | ⟨-, hlt, -⟩ | ⟨-, -, he⟩
    · simp [hclocked, elapsedStep_eq, hinfl] at hfree
    · have hwait : (clocked s).wait (clocked s).seq.scls = (s.table.get .id).wait := by simp [State.wait, hscls]
      rw [hwait, clocked_wcnt] at hlt
      omega
    · rwa [clocked_scls, hscls] at he
  have hslot : HasSlot (clocked s).waited .id := by
    rw [hclocked, elapsedStep_eq]
    exact ⟨hinfl, hscls⟩
  have hend := expire_id hslot
  have hquiet : Quiet (expire .id (clocked s).waited) := quiet_of_unassigned (by simp [hend])
  change Host.Outcome.next (tickStep s) = _
  rw [tickStep_of_on hon, hexpire, endOfStep_of_quiet hquiet, hend, hclocked, elapsedStep_eq, endTxn_eq]
  have hfreed : (s.seq.infl && decide (MsgClass.id ≠ .id)) = false := by simp
  simp only [holder, ← satInc_wcnt, State.waited, State.setSeq_seq, State.setSeq_setSeq, hscls, hfreed, State.txn,
    PerClass.get, Txn.aged_tf, Txn.aged_pcnt]
  rfl

end Sys2Proof.Machine

/-! SUPPORT. Retries (spec/40_sequencer.md R116 to R118, R127): one Tick of a request in flight with nothing else live, and any
number of Ticks in which no period ends. -/
namespace Sys2Proof.Machine
open Sys2Proof

/-! ### Ticks in which no period ends (R116) -/

/-- Ticks add up at either end. -/
theorem ticks_succ (n : Nat) (s : State) : ticks (n + 1) s = tickStep (ticks n s) := by
  induction n generalizing s with
  | zero => rfl
  | succ n ih => exact ih (tickStep s)

/-- Within `n` Ticks no class reaches its period: it is off, has none, or counts too little (R116). -/
def NoPeriodWithin (n : Nat) (s : State) : Prop :=
  ∀ k, k = .req ∨ k = .wd → s.host.ctrl.en k = false ∨ (s.table.get k).period = 0 ∨
    (s.txn k).pcnt.toNat + n < (s.table.get k).period.toNat

/-- What `n` Ticks without the end of a period keep: CTRL and the table, and counts that are at most `n` higher (R116). -/
structure TickedOn (s : State) (n : Nat) (t : State) : Prop where
  ctrl : t.host.ctrl = s.host.ctrl
  table : t.table = s.table
  pcnt : ∀ k, (t.txn k).pcnt.toNat ≤ (s.txn k).pcnt.toNat + n

/-- No period ends in the next Tick. -/
theorem TickedOn.not_periodEnds {s t : State} {n m : Nat} (h : TickedOn s n t) (hno : NoPeriodWithin m s) (hn : n < m)
    (k : MsgClass) : ¬ PeriodEnds t k := by
  rintro ⟨⟨hst, hen, hper⟩, hle⟩
  have hk : k = .req ∨ k = .wd := by
    by_contra hk
    have hidle : k = .id ∨ k = .data := by cases k <;> simp at hk ⊢
    exact not_counts hidle ⟨hst, hen, hper⟩
  rw [period_eq_table t hk, h.table] at hper hle
  have hcount := h.pcnt k
  rcases hno k hk with hoff | hzero | hlt
  · simp [h.ctrl, hoff] at hen
  · exact hper hzero
  · omega

/-- A Tick at most counts on (R116). -/
theorem TickedOn.tickStep {s t : State} {n : Nat} (h : TickedOn s n t) (hon : t.host.ctrl.seqEn = true)
    (hper : ∀ k, ¬ PeriodEnds t k) : TickedOn s (n + 1) (tickStep t) where
  ctrl := by rw [tickStep_of_on hon]; simpa using h.ctrl
  table := by rw [tickStep_of_on hon]; simpa using h.table
  pcnt k := by
    obtain ⟨p, ⟨hcount, hstay⟩, hcont⟩ := tickStep_of_not_periodEnds hon (hper k)
    have hk := h.pcnt k
    have hp : p.toNat ≤ (t.txn k).pcnt.toNat + 1 := by
      by_cases hc : Counts t k
      · rw [hcount hc, satInc_toNat]
        omega
      · rw [hstay hc]
        omega
    rw [hcont.pcnt, Txn.aged_pcnt]
    dsimp only
    omega

theorem tickedOn_ticks {s : State} {m : Nat} (hon : s.host.ctrl.seqEn = true) (hno : NoPeriodWithin m s) {n : Nat}
    (hn : n ≤ m) : TickedOn s n (ticks n s) := by
  induction n with
  | zero => exact ⟨rfl, rfl, fun _ => le_rfl⟩
  | succ n ih =>
    have h := ih (by omega)
    rw [ticks_succ]
    exact h.tickStep (by rw [h.ctrl, hon]) (h.not_periodEnds hno (by omega))

/-! ### One Tick of a request in flight (R117, R118) -/

/-- The request of class `c` is in flight, and no other class has a transaction. -/
structure InFlight (s : State) (c : MsgClass) : Prop where
  on : s.host.ctrl.seqEn = true
  assigned : s.seq.astate = .assigned
  slot : HasSlot s c
  active : (s.txn c).active = true
  sent : (s.txn c).sent = true
  pend : (s.txn c).pend = false
  others : ∀ k, k ≠ c → (s.txn k).active = false ∧ (s.txn k).pend = false

/-- After one Tick the request of class `c` is in flight still, waiting since `w` Ticks, and `fs` went out. -/
structure StaysInFlight (s : State) (c : MsgClass) (w : Nat) (fs : List (List Byte)) (t : State) : Prop where
  inFlight : InFlight t c
  wcnt : t.seq.wcnt.toNat = w
  elap : (t.txn c).elap.toNat = min ((s.txn c).elap.toNat + 1) 131071
  tf : (t.txn c).tf = (s.txn c).tf
  txlog : t.out.txlog = s.out.txlog ++ fs
  host : t.host = s.host

/-- No class has a transaction and the slot is free. -/
structure Idle (s : State) : Prop where
  on : s.host.ctrl.seqEn = true
  infl : s.seq.infl = false
  none : ∀ k, (s.txn k).active = false ∧ (s.txn k).pend = false

/-- A wait that ends with a retry left makes the resend due and frees the slot (R118). -/
theorem expire_of_retryDue {s : State} {c : MsgClass} (h : retryDue s c = true) :
    expire c s = (s.setSeq { s.seq with infl := false }).setTxn c { s.txn c with pend := true } := by
  rcases expire_cases c s with ⟨-, he⟩ | ⟨hno, -⟩ | ⟨hno, -⟩
  · exact he
  all_goals simp [h] at hno

/-- A wait that ends with no retry left ends the transaction and counts a failure (R118). -/
theorem expire_of_not_retryDue {s : State} {c : MsgClass} (hid : c ≠ .id) (hslot : HasSlot s c)
    (h : retryDue s c = false) : expire c s = countEvent .txnFail (endTxn c s) := by
  rcases expire_cases c s with ⟨hyes, -⟩ | ⟨-, he, -⟩ | ⟨-, -, he⟩
  · simp [h] at hyes
  · exact absurd he hid
  · rwa [endTxn_of_slot_freed hslot] at he

namespace InFlight
variable {s : State} {c : MsgClass}

/-- The clocks leave the request in flight, and it ages (R116, R117). -/
theorem after_clocks (h : InFlight s c) (hper : ∀ k, ¬ PeriodEnds s k) :
    InFlight (clocked s) c ∧ ((clocked s).txn c).tf = (s.txn c).tf ∧
    ((clocked s).txn c).elap.toNat = min ((s.txn c).elap.toNat + 1) 131071 := by
  obtain ⟨n, -, htxn, hslot⟩ := clocked_of_not_periodEnds (hper c)
  have hage : ({ s.txn c with pcnt := n } : Txn).aged = { s.txn c with pcnt := n, elap := satInc (s.txn c).elap } :=
    if_pos ⟨h.active, h.sent⟩
  rw [hage] at htxn
  refine ⟨⟨by simpa using h.on, by simpa using h.assigned, hslot.mpr h.slot, by simp [htxn, h.active],
    by simp [htxn, h.sent], by simp [htxn, h.pend], fun k hk => ?_⟩, by rw [htxn], by rw [htxn]; exact satInc_toNat _⟩
  obtain ⟨p, -, hk', -⟩ := clocked_of_not_periodEnds (hper k)
  rw [hk', Txn.aged_active, Txn.aged_pend]
  exact h.others k hk

theorem wait_clocked (h : InFlight s c) : (clocked s).wait (clocked s).seq.scls = (s.table.get c).wait := by
  simp [State.wait, h.slot.2]

theorem waited (h : InFlight s c) : InFlight s.waited c := ⟨h.on, h.assigned, h.slot, h.active, h.sent, h.pend, h.others⟩

theorem setOut (h : InFlight s c) (o : Outputs) : InFlight (s.setOut o) c :=
  ⟨h.on, h.assigned, h.slot, h.active, h.sent, h.pend, h.others⟩

/-- Before its wait runs out the request goes on waiting (R117). -/
theorem tick_of_waiting (h : InFlight s c) (hper : ∀ k, ¬ PeriodEnds s k)
    (hlt : s.seq.wcnt.toNat + 1 < (s.table.get c).wait.toNat) :
    StaysInFlight s c (s.seq.wcnt.toNat + 1) [] (tickStep s) := by
  obtain ⟨hu, htf, helap⟩ := h.after_clocks hper
  have hwait : waitStep (clocked s) = (clocked s).waited := by
    rcases waitStep_cases (clocked s) with ⟨hfree, -⟩ | ⟨-, -, he⟩ | ⟨-, hle, -⟩
    · simp [hu.slot.1] at hfree
    · exact he
    · rw [h.wait_clocked, clocked_wcnt] at hle
      omega
  have hwlt := ((s.table.get c).wait).isLt
  rw [tickStep_of_on h.on, hwait, endOfStep_of_quiet (quiet_of_infl hu.waited.slot.1)]
  refine ⟨hu.waited.setOut _, ?_, by simpa using helap, by simpa using htf, by simp, by simp⟩
  simp only [State.setOut_seq, State.waited_wcnt, clocked_wcnt, satInc_toNat]
  omega

/-- When the wait runs out it expires (R117). -/
theorem tick_of_expired (h : InFlight s c) (hper : ∀ k, ¬ PeriodEnds s k)
    (hle : (s.table.get c).wait.toNat ≤ s.seq.wcnt.toNat + 1) :
    tickStep s = endOfStep (expire c (clocked s).waited) := by
  obtain ⟨hu, -, -⟩ := h.after_clocks hper
  rcases waitStep_cases (clocked s) with ⟨hfree, -⟩ | ⟨-, hlt, -⟩ | ⟨-, -, he⟩
  · simp [hu.slot.1] at hfree
  · rw [h.wait_clocked, clocked_wcnt] at hlt
    omega
  · rw [tickStep_of_on h.on, he, hu.slot.2]

/-- The resend that falls due is granted the slot: nothing else is due (R114, R118). -/
theorem arbitrate_expire (h : InFlight s c) (hid : c ≠ .id) (hretry : retryDue s c = true) :
    arbitrate (expire c s) = grant c (expire c s) := by
  have hself : (expire c s).txn c = { s.txn c with pend := true } := by
    rw [expire_of_retryDue hretry, State.txn_setTxn_self]
  have hst : (expire c s).seq.astate = .assigned := by
    rw [expire_of_retryDue hretry, State.setTxn_astate]
    exact h.assigned
  refine arbitrate_of_only (by simpa using h.on) (expire_infl c s) ?_ fun k hk => ?_
  · exact sendable_eq_true.mpr ⟨by rw [hself], allowed_iff.mpr (.inr ⟨hid, hst⟩)⟩
  · simp [State.sendable, expire_txn_of_ne c s hk, (h.others k hk).2]

/-- A retry sends the same frame again and starts the wait anew; its elapsed time runs on (R114, R118). -/
theorem endOfStep_expire (h : InFlight s c) (hid : c ≠ .id) (hretry : retryDue s c = true) :
    InFlight (endOfStep (expire c s)) c ∧ (endOfStep (expire c s)).txn c = s.txn c ∧
    (endOfStep (expire c s)).seq.wcnt = 0 ∧ (endOfStep (expire c s)).out.txlog = s.out.txlog ++ [(s.txn c).tf] ∧
    (endOfStep (expire c s)).host = s.host := by
  have hgrant := h.arbitrate_expire hid hretry
  have hself : (expire c s).txn c = { s.txn c with pend := true } := by
    rw [expire_of_retryDue hretry, State.txn_setTxn_self]
  have hhost : (expire c s).host = s.host := by simp [expire_of_retryDue hretry]
  have htxn : (endOfStep (expire c s)).txn c = s.txn c := by
    rw [endOfStep_txn, hgrant, grant_txn, if_pos rfl, hself]
    simp only [h.sent, if_true]
    rw [← h.pend, ← h.sent]
  have hst : (endOfStep (expire c s)).seq.astate = .assigned := by
    rw [endOfStep_seq, arbitrate_astate, expire_of_retryDue hretry, State.setTxn_astate]
    exact h.assigned
  refine ⟨⟨by rw [endOfStep_host, hhost, h.on], hst, ?_, by rw [htxn, h.active], by rw [htxn, h.sent],
    by rw [htxn, h.pend], fun k hk => ?_⟩, htxn, ?_, ?_, by rw [endOfStep_host, hhost]⟩
  · rw [HasSlot, endOfStep_seq, hgrant]
    exact ⟨rfl, rfl⟩
  · rw [endOfStep_txn, hgrant, grant_txn, if_neg hk, expire_txn_of_ne c s hk]
    exact h.others k hk
  · rw [endOfStep_seq, hgrant, grant_wcnt]
  · rw [endOfStep_txlog, hgrant, grant_txlog, hself, expire_out]

/-- The end of a wait with a retry left: one resend (R118). -/
theorem tick_of_retry (h : InFlight s c) (hper : ∀ k, ¬ PeriodEnds s k) (hid : c ≠ .id)
    (hle : (s.table.get c).wait.toNat ≤ s.seq.wcnt.toNat + 1) (hretry : retryDue (clocked s) c = true) :
    StaysInFlight s c 0 [(s.txn c).tf] (tickStep s) := by
  obtain ⟨hu, htf, helap⟩ := h.after_clocks hper
  obtain ⟨hfly, htxn, hwcnt, hlog, hhost⟩ := hu.waited.endOfStep_expire hid hretry
  rw [← h.tick_of_expired hper hle] at hfly htxn hwcnt hlog hhost
  rw [State.waited_txn] at htxn hlog
  refine ⟨hfly, by rw [hwcnt]; rfl, by rw [htxn, helap], by rw [htxn, htf], ?_, by simpa using hhost⟩
  rw [hlog, htf, State.waited_out, clocked_out]

/-- The end of a wait with no retry left: the transaction ends and the failure is counted; nothing is sent (R118). -/
theorem tick_of_giveUp (h : InFlight s c) (hper : ∀ k, ¬ PeriodEnds s k) (hid : c ≠ .id)
    (hle : (s.table.get c).wait.toNat ≤ s.seq.wcnt.toNat + 1) (hretry : retryDue (clocked s) c = false) :
    Idle (tickStep s) ∧ (tickStep s).out.txlog = s.out.txlog ∧ (tickStep s).host = (countEvent .txnFail s).host := by
  obtain ⟨hu, -, -⟩ := h.after_clocks hper
  have hexp := expire_of_not_retryDue hid hu.waited.slot hretry
  have hnone (k : MsgClass) : ((expire c (clocked s).waited).txn k).active = false ∧
      ((expire c (clocked s).waited).txn k).pend = false := by
    rw [hexp, countEvent_txn, endTxn_txn]
    by_cases hk : k = c
    · rw [if_pos hk]
      exact ⟨rfl, rfl⟩
    · rw [if_neg hk]
      exact hu.others k hk
  have hhost : (expire c (clocked s).waited).host = (countEvent .txnFail s).host := by
    have hw : (endTxn c (clocked s).waited).host = s.host := by simp
    rw [hexp]
    simp only [countEvent, State.setHost, State.raise, hw]
  rw [h.tick_of_expired hper hle, endOfStep_of_quiet (quiet_of_not_pend fun k => (hnone k).2)]
  refine ⟨⟨?_, expire_infl _ _, hnone⟩, by simp, hhost⟩
  simpa using h.on

end InFlight

/-- An idle sequencer stays idle while no period ends (R116, R117). -/
theorem Idle.tick {s : State} (h : Idle s) (hper : ∀ k, ¬ PeriodEnds s k) :
    Idle (tickStep s) ∧ (tickStep s).out.txlog = s.out.txlog ∧ (tickStep s).host = s.host := by
  have hnone (k : MsgClass) : ((clocked s).txn k).active = false ∧ ((clocked s).txn k).pend = false := by
    obtain ⟨p, -, hk, -⟩ := clocked_of_not_periodEnds (hper k)
    rw [hk, Txn.aged_active, Txn.aged_pend]
    exact h.none k
  have hfree : (clocked s).seq.infl = false := by
    by_contra hinfl
    obtain ⟨p, -, -, hslot⟩ := clocked_of_not_periodEnds (hper s.seq.scls)
    have := (hslot.mp ⟨by simpa using hinfl, clocked_scls s⟩).1
    simp [h.infl] at this
  have hwait : waitStep (clocked s) = clocked s := by
    rcases waitStep_cases (clocked s) with ⟨-, he⟩ | ⟨hinfl, -⟩ | ⟨hinfl, -⟩
    · exact he
    all_goals simp [hfree] at hinfl
  rw [tickStep_of_on h.on, hwait, endOfStep_of_quiet (quiet_of_not_pend fun k => (hnone k).2)]
  exact ⟨⟨by simpa using h.on, hfree, hnone⟩, by simp, by simp⟩

/-! ### The schedule of the retries (R118, R127) -/

/-- The Ticks from one send to the next: WAIT[c], and one where that is 0 (R117). -/
def resendEvery (s : State) (c : MsgClass) : Nat := max (s.table.get c).wait.toNat 1

theorem resendEvery_pos (s : State) (c : MsgClass) : 0 < resendEvery s c := Nat.le_max_right _ 1

/-- A wait that ends `n` Ticks after `s` is answered by a retry: the window is unbounded or not yet passed (R118). -/
def RetryLeft (s : State) (c : MsgClass) (n : Nat) : Prop :=
  (s.table.get c).retry.ren = true ∧
    ((s.table.get c).retry.rinf = true ∨ min ((s.txn c).elap.toNat + n) 131071 ≤ (s.table.get c).retry.rwin.toNat)

/-- `n` Ticks after its first send in `s` the request is in flight still, and has been sent again once per wait. -/
structure OnSchedule (s : State) (c : MsgClass) (n : Nat) (t : State) : Prop where
  inFlight : InFlight t c
  wcnt : t.seq.wcnt.toNat = n % resendEvery s c
  elap : (t.txn c).elap.toNat = min ((s.txn c).elap.toNat + n) 131071
  tf : (t.txn c).tf = (s.txn c).tf
  txlog : t.out.txlog = s.out.txlog ++ List.replicate (n / resendEvery s c) (s.txn c).tf
  host : t.host = s.host

/-- One Tick more within a wait of `w` Ticks. -/
theorem succ_within_wait {n w : Nat} (h : n % w + 1 < w) : (n + 1) / w = n / w ∧ (n + 1) % w = n % w + 1 := by
  have hn := Nat.mod_add_div n w
  exact (Nat.div_mod_unique (by omega)).mpr ⟨by omega, h⟩

/-- The Tick that ends a wait of `w` Ticks. -/
theorem succ_ends_wait {n w : Nat} (hw : 0 < w) (h : w ≤ n % w + 1) : (n + 1) / w = n / w + 1 ∧ (n + 1) % w = 0 := by
  have hn := Nat.mod_add_div n w
  have hlt := Nat.mod_lt n hw
  refine (Nat.div_mod_unique hw).mpr ⟨?_, hw⟩
  rw [Nat.mul_add]
  omega

namespace OnSchedule
variable {s t : State} {c : MsgClass} {n : Nat}

/-- Whether a retry is left is the table's and the clock's to say (R40, R118). -/
theorem retryDue_iff (h : OnSchedule s c n t) (hticked : TickedOn s n t) (hper : ∀ k, ¬ PeriodEnds t k) (hid : c ≠ .id) :
    retryDue (clocked t) c = true ↔ RetryLeft s c (n + 1) := by
  obtain ⟨-, -, helap⟩ := h.inFlight.after_clocks hper
  have hadd : min (min ((s.txn c).elap.toNat + n) 131071 + 1) 131071 = min ((s.txn c).elap.toNat + (n + 1)) 131071 := by
    omega
  rw [h.elap, hadd] at helap
  have hretry : (clocked t).retry c = (s.table.get c).retry := by rw [retry_eq_table _ hid, clocked_table, hticked.table]
  simp [retryDue, RetryLeft, hretry, helap]

/-- The Tick ends the wait exactly where the schedule says so (R117). -/
theorem wait_le_iff (h : OnSchedule s c n t) (hticked : TickedOn s n t) :
    (t.table.get c).wait.toNat ≤ t.seq.wcnt.toNat + 1 ↔ resendEvery s c ≤ n % resendEvery s c + 1 := by
  rw [h.wcnt, hticked.table]
  generalize n % resendEvery s c = r
  unfold resendEvery
  omega

/-- One more Tick, answered by a resend where it ends a wait (R117, R118). -/
theorem tick (h : OnSchedule s c n t) (hticked : TickedOn s n t) (hper : ∀ k, ¬ PeriodEnds t k) (hid : c ≠ .id)
    (hretry : resendEvery s c ∣ n + 1 → RetryLeft s c (n + 1)) : OnSchedule s c (n + 1) (tickStep t) := by
  have hage : min ((t.txn c).elap.toNat + 1) 131071 = min ((s.txn c).elap.toNat + (n + 1)) 131071 := by
    rw [h.elap]
    omega
  by_cases hends : resendEvery s c ≤ n % resendEvery s c + 1
  · obtain ⟨hdiv, hmod⟩ := succ_ends_wait (resendEvery_pos s c) hends
    have hdue := (h.retryDue_iff hticked hper hid).mpr (hretry (Nat.dvd_of_mod_eq_zero hmod))
    have hst := h.inFlight.tick_of_retry hper hid ((h.wait_le_iff hticked).mpr hends) hdue
    refine ⟨hst.inFlight, by rw [hst.wcnt, hmod], by rw [hst.elap, hage], hst.tf.trans h.tf, ?_, hst.host.trans h.host⟩
    rw [hst.txlog, h.txlog, hdiv, h.tf, List.replicate_succ', List.append_assoc]
  · obtain ⟨hdiv, hmod⟩ := succ_within_wait (Nat.lt_of_not_le hends)
    have hst := h.inFlight.tick_of_waiting hper (Nat.lt_of_not_le (mt (h.wait_le_iff hticked).mp hends))
    refine ⟨hst.inFlight, by rw [hst.wcnt, h.wcnt, hmod], by rw [hst.elap, hage], hst.tf.trans h.tf, ?_,
      hst.host.trans h.host⟩
    rw [hst.txlog, h.txlog, hdiv, List.append_nil]

end OnSchedule

/-- The schedule runs while every wait that ends is answered by a retry and no period ends (R118, R127). -/
theorem onSchedule_ticks {s : State} {c : MsgClass} {m n : Nat} (hfly : InFlight s c) (hw : s.seq.wcnt = 0)
    (hid : c ≠ .id) (hno : NoPeriodWithin m s) (hn : n ≤ m)
    (hretry : ∀ j, 1 ≤ j → j ≤ n → resendEvery s c ∣ j → RetryLeft s c j) : OnSchedule s c n (ticks n s) := by
  induction n with
  | zero =>
    have helap := (s.txn c).elap.isLt
    exact ⟨hfly, by simp [ticks, hw], by simp only [ticks]; omega, rfl, by simp [ticks], rfl⟩
  | succ n ih =>
    have hticked := tickedOn_ticks hfly.on hno (n := n) (by omega)
    rw [ticks_succ]
    exact (ih (by omega) fun j h1 hj => hretry j h1 (by omega)).tick hticked (hticked.not_periodEnds hno (by omega)) hid
      (hretry (n + 1) (by omega) le_rfl)

/-- Settles O33: the window is unbounded, so every wait that ends is answered by a retry. -/
theorem unboundedRetrySchedule : Obligations.UnboundedRetrySchedule := by
  intro s c n hid hon hst hinfl hscls hw hact hsent hpend hothers hno hren hrinf
  have hfly : InFlight s c := ⟨hon, hst, ⟨hinfl, hscls⟩, hact, hsent, hpend, hothers⟩
  have h := onSchedule_ticks hfly hw hid hno le_rfl fun _ _ _ _ => ⟨hren, .inl hrinf⟩
  exact ⟨h.txlog, h.host, h.inFlight.active⟩

/-! ### The end of a bounded window (R118, R127, R257) -/

/-- The retries a bounded window has room for (R127). -/
def retriesIn (s : State) (c : MsgClass) : Nat :=
  if (s.table.get c).retry.ren then (s.table.get c).retry.rwin.toNat / resendEvery s c else 0

section Bounded
variable {s : State} {c : MsgClass}

/-- Of the waits of a bounded window that opens with the first send, the first `retriesIn` are answered by a retry, and no
other (R118). -/
theorem retryLeft_iff (helap : (s.txn c).elap = 0)
    (hbounded : (s.table.get c).retry.ren = true → (s.table.get c).retry.rinf = false) {j : Nat} (h1 : 1 ≤ j) :
    RetryLeft s c (j * resendEvery s c) ↔ j ≤ retriesIn s c := by
  have hrwin := (s.table.get c).retry.rwin.isLt
  unfold RetryLeft retriesIn
  cases hren : (s.table.get c).retry.ren with
  | false => simp; omega
  | true =>
    rw [if_pos rfl, Nat.le_div_iff_mul_le (resendEvery_pos s c)]
    simp [hbounded hren, helap]
    omega

/-- Before the last wait ends every wait that ends is answered by a retry (R118). -/
theorem retryLeft_of_lt (helap : (s.txn c).elap = 0)
    (hbounded : (s.table.get c).retry.ren = true → (s.table.get c).retry.rinf = false) {j : Nat} (h1 : 1 ≤ j)
    (hj : j < (retriesIn s c + 1) * resendEvery s c) (hdvd : resendEvery s c ∣ j) : RetryLeft s c j := by
  obtain ⟨i, rfl⟩ := hdvd
  rw [Nat.mul_comm] at h1 hj ⊢
  have hi : i < retriesIn s c + 1 := Nat.lt_of_mul_lt_mul_right hj
  have hi1 : 1 ≤ i := Nat.pos_of_mul_pos_right h1
  exact (retryLeft_iff helap hbounded hi1).mpr (by omega)

/-- With the last wait of the window the transaction gives up and the failure is counted (R118, R257). -/
theorem idle_at_giveUp {m : Nat} (hfly : InFlight s c) (hw : s.seq.wcnt = 0) (hid : c ≠ .id)
    (helap : (s.txn c).elap = 0) (hbounded : (s.table.get c).retry.ren = true → (s.table.get c).retry.rinf = false)
    (hno : NoPeriodWithin m s) (hm : (retriesIn s c + 1) * resendEvery s c ≤ m) :
    let t := ticks ((retriesIn s c + 1) * resendEvery s c) s
    Idle t ∧ t.out.txlog = s.out.txlog ++ List.replicate (retriesIn s c) (s.txn c).tf ∧
    t.host = (countEvent .txnFail s).host := by
  have hpos := resendEvery_pos s c
  obtain ⟨p, hp⟩ : ∃ p, (retriesIn s c + 1) * resendEvery s c = p + 1 :=
    Nat.exists_eq_add_one.mpr (Nat.mul_pos (Nat.succ_pos _) hpos)
  have hticked := tickedOn_ticks hfly.on hno (n := p) (by omega)
  have hper := hticked.not_periodEnds hno (by omega)
  have h := onSchedule_ticks hfly hw hid hno (n := p) (by omega)
    fun j h1 hj => retryLeft_of_lt helap hbounded h1 (by omega)
  have hdivmod : p / resendEvery s c = retriesIn s c ∧ p % resendEvery s c = resendEvery s c - 1 := by
    refine (Nat.div_mod_unique hpos).mpr ⟨?_, by omega⟩
    rw [Nat.mul_comm (resendEvery s c)]
    rw [Nat.add_mul] at hp
    omega
  have hnone : retryDue (clocked (ticks p s)) c = false := by
    by_contra hyes
    have hleft := (h.retryDue_iff hticked hper hid).mp (by simpa using hyes)
    rw [← hp, retryLeft_iff helap hbounded (by omega)] at hleft
    omega
  obtain ⟨hidle, hlog, hhost⟩ := h.inFlight.tick_of_giveUp hper hid ((h.wait_le_iff hticked).mpr (by omega)) hnone
  rw [hp, ticks_succ]
  refine ⟨hidle, by rw [hlog, h.txlog, hdivmod.1], hhost.trans ?_⟩
  simp only [countEvent, State.setHost, State.raise, h.host]

/-- After the give-up the sequencer stays idle and sends nothing more (R118). -/
theorem idle_after_giveUp {m n : Nat} (hfly : InFlight s c) (hw : s.seq.wcnt = 0) (hid : c ≠ .id)
    (helap : (s.txn c).elap = 0) (hbounded : (s.table.get c).retry.ren = true → (s.table.get c).retry.rinf = false)
    (hno : NoPeriodWithin m s) (hlast : (retriesIn s c + 1) * resendEvery s c ≤ n) (hn : n ≤ m) :
    Idle (ticks n s) ∧ (ticks n s).out.txlog = s.out.txlog ++ List.replicate (retriesIn s c) (s.txn c).tf ∧
    (ticks n s).host = (countEvent .txnFail s).host := by
  induction n, hlast using Nat.le_induction with
  | base => exact idle_at_giveUp hfly hw hid helap hbounded hno hn
  | succ n hle ih =>
    obtain ⟨hidle, hlog, hhost⟩ := ih (by omega)
    have hticked := tickedOn_ticks hfly.on hno (n := n) (by omega)
    obtain ⟨hidle', hlog', hhost'⟩ := hidle.tick (hticked.not_periodEnds hno (by omega))
    rw [ticks_succ]
    exact ⟨hidle', hlog'.trans hlog, hhost'.trans hhost⟩

end Bounded

/-- Settles O34: the schedule up to the last wait of the window, then the give-up. -/
theorem boundedRetryGivesUp : Obligations.BoundedRetryGivesUp := by
  intro s c n hid hon hst hinfl hscls hw hact hsent hpend helap hothers hno hbounded w k
  have hfly : InFlight s c := ⟨hon, hst, ⟨hinfl, hscls⟩, hact, hsent, hpend, hothers⟩
  refine ⟨fun hn => ?_, fun hn => ?_⟩
  · have h := onSchedule_ticks hfly hw hid hno le_rfl fun j h1 hj =>
      retryLeft_of_lt helap hbounded h1 (Nat.lt_of_le_of_lt hj hn)
    exact ⟨h.txlog, h.inFlight.active, h.host⟩
  · obtain ⟨hidle, hlog, hhost⟩ := idle_after_giveUp hfly hw hid helap hbounded hno hn le_rfl
    refine ⟨hlog, (hidle.none c).1, hidle.infl, ?_⟩
    rw [hhost, ← satInc_byte, ← (raiseInt_eq_or s.host.intstat).2.1]
    rfl

end Sys2Proof.Machine

/-! SUPPORT. What an event does to ASTATE, to the stored address and to TXLOG (spec/40_sequencer.md R110, R113, R119 to R121,
R131, R265), and the acknowledgement of a request. -/
namespace Sys2Proof.Machine
open Sys2Proof

/-! ### The acknowledged request (R119, R121) -/

/-- A response from the own address to a live, sent transaction ends it (R119). -/
theorem matchResponse_ack {s : State} {k : MsgClass} {fb : List Byte} (hon : s.host.ctrl.seqEn = true) (hid : k ≠ .id)
    (haddr : frameAddr fb = s.host.addr) (hact : (s.txn k).active = true) (hsent : (s.txn k).sent = true) :
    matchResponse k .response fb s = (endTxn k s).raise .ack := by
  simp [matchResponse, hon, hact, hsent, hid, haddr]

/-- The bytes of an address give it back (R63). -/
theorem Addr.toList_inj {a b : Addr} (h : a.toList = b.toList) : a = b := by
  cases a
  cases b
  simp_all [Addr.toList]

/-- What an acknowledged request leaves at the end of the step (R119, R121). -/
theorem endOfStep_ack (u : State) (k : MsgClass) :
    let t := endOfStep ((endTxn k u).raise .ack)
    t.txn k = (u.txn k).ended ∧ ¬ HasSlot t k ∧
    (∀ c, c ≠ k → (t.txn c).active = (u.txn c).active ∧ (t.txn c).tf = (u.txn c).tf ∧ (t.txn c).pcnt = (u.txn c).pcnt) ∧
    t.host = { u.host with intstat := raiseInt .ack u.host.intstat } ∧ t.seq.astate = u.seq.astate ∧ t.table = u.table ∧
    t.out.nvlog = u.out.nvlog := by
  have hk : ((endTxn k u).raise .ack).txn k = (u.txn k).ended := by
    rw [State.raise_txn, endTxn_txn, if_pos rfl]
    rfl
  obtain ⟨harb, hslot⟩ := arbitrate_of_not_pend (s := (endTxn k u).raise .ack) (c := k) (by rw [hk]; rfl)
  refine ⟨harb.trans hk, fun h => ?_, fun c hc => ?_, ?_, by simp, by simp, by simp⟩
  · exact ((hasSlot_endTxn k k u).mp (hslot.mp h)).2 rfl
  · have hkept := arbitrate_txn_kept ((endTxn k u).raise .ack) c
    rwa [State.raise_txn, endTxn_txn, if_neg hc] at hkept
  · rw [endOfStep_host, State.raise, endTxn_host]
    rfl

/-- Settles O23: the response matches, and the ended transaction has nothing due for the end of the step. -/
theorem ownResponseAcknowledges : Obligations.OwnResponseAcknowledges := by
  intro s i k fb hs hrx hx hon hparts hwf hid haddr hact hsent
  obtain ⟨rb, he⟩ := exec_frame hs hrx hx hparts hwf
  have hown : frameAddr fb = (delivered fb k .response rb s).host.addr :=
    (Addr.toList_inj (a := frameAddr fb) haddr).trans (deliveredHost_addr fb k .response s.host).symm
  rw [matchResponse_ack (by simpa [delivered] using hon) hid hown hact hsent] at he
  obtain ⟨htxn, hslot, hothers, hhost, hst, htable, hnv⟩ := endOfStep_ack (delivered fb k .response rb s) k
  refine ⟨_, he, by rw [htxn]; rfl, by rw [htxn]; rfl, by rw [htxn]; rfl, by rw [htxn]; rfl,
    fun hinfl hscls => hslot ⟨hinfl, hscls⟩, hothers, ?_, fun j hlo hhi => ?_, ?_, ?_, hst, htable, hnv⟩
  · rw [hhost]
    simp [raiseInt_getLsbD, IntSource.bit]
  · rw [hhost]
    exact (raiseInt_getLsbD_of_ne (by simp only [IntSource.bit]; omega) _).trans
      (deliveredHost_intstat _ _ _ s.host hlo (by omega))
  · rw [hhost]
    exact deliveredHost_addr ..
  · rw [hhost]
    exact deliveredHost_cnt ..

/-! ### Request frames (R113, R265) -/

/-- A sequencer frame starts with the request code of its class (R113). -/
theorem IsSeqFrame.head? {s : State} {c : MsgClass} {f : List Byte} (h : IsSeqFrame s c f) :
    f.head? = some (s.cfg.tc.code.get c) := by
  unfold IsSeqFrame at h
  split at h
  · next hc =>
    obtain ⟨devtype, mod0, mod1, mod2, rfl⟩ := h
    rw [hc]
    rfl
  · obtain ⟨v, b, rfl⟩ := h
    rfl

/-- Every one of the frames starts with a request code. -/
def AllRequests (cfg : Config) (fs : List (List Byte)) : Prop := ∀ f ∈ fs, ∃ k, f.head? = some (cfg.tc.code.get k)

/-- What the sequencer sends at the end of a step is a snapshot, hence a request (R112 to R114). -/
theorem SequencerSent.allRequests {t : State} {fs : List (List Byte)} (h : SequencerSent t fs) (hinv : SequencerInv t) :
    AllRequests t.cfg fs := by
  rintro f hf
  rcases h with rfl | ⟨rfl, hinfl, -⟩
  · exact absurd hf List.not_mem_nil
  · rw [List.mem_singleton] at hf
    obtain ⟨hact, -⟩ := hinv.slot hinfl
    exact ⟨_, hf ▸ (hinv.snapshot _ hact).head?⟩

/-- Bytes from the wire make the sequencer send requests only: one end of step for each byte (R265). -/
theorem receiveBytes_requests (bs : List Byte) {s : State} (h : SequencerInv s) :
    ∃ fs, (receiveBytes bs s).out.txlog = s.out.txlog ++ fs ∧ AllRequests s.cfg fs := by
  induction bs generalizing s with
  | nil => exact ⟨[], by simp [receiveBytes], fun _ hf => absurd hf List.not_mem_nil⟩
  | cons b bs ih =>
    have hinv : SequencerInv (rxByteStep b s) := (h.receiveByte b).endOfStep
    obtain ⟨fs, hlog, hsent⟩ := endOfStep_sent (receiveByte b s)
    obtain ⟨gs, hlog', hreq⟩ := ih hinv
    have hfirst := hsent.allRequests hinv
    rw [(rxByteStep_cfg_inputs b s).1] at hreq
    rw [endOfStep_cfg, (receiveByte_cfg_inputs b s).1] at hfirst
    refine ⟨fs ++ gs, ?_, fun f hf => ?_⟩
    · calc (receiveBytes bs (rxByteStep b s)).out.txlog
          = (endOfStep (receiveByte b s)).out.txlog ++ gs := hlog'
        _ = s.out.txlog ++ (fs ++ gs) := by rw [hlog, receiveByte_txlog, List.append_assoc]
    · exact (List.mem_append.mp hf).elim (hfirst f) (hreq f)

/-- Settles O38: a frame on the wire byte by byte, any other event by the one frame its end of step may send. -/
theorem sequencerSendsOnlyRequests : Obligations.SequencerSendsOnlyRequests := by
  intro i s t hinv he hraw hlogical
  by_cases hwire : FromWire i
  · obtain ⟨bs, hbs, -⟩ := hwire.exec_eq s
    rw [hbs] at he
    cases he
    exact receiveBytes_requests bs hinv
  · have hparts (cfg : Config) : frameParts cfg i = none := by
      by_contra hsome
      obtain ⟨p, hp⟩ := Option.ne_none_iff_exists'.mp hsome
      exact hwire (.inr (.inr ⟨cfg, p, hp⟩))
    have hinv' : SequencerInv t := SequencerInv.kept.exec hinv he
    obtain ⟨hcfg, -⟩ := configurationNeverChanges i s t he
    obtain ⟨w, hostFrames, rfl, hwork, hhost⟩ := exec_eventEnds he hparts
    obtain ⟨fs, hend, hsent⟩ := endOfStep_sent w
    have hnone : hostFrames = [] := by
      rcases hhost with h | ⟨h, -⟩ | ⟨h, -⟩
      · exact h
      · exact absurd h hraw
      · exact absurd h hlogical
    refine ⟨fs, by rw [hend, hwork, hnone, List.append_nil], ?_⟩
    exact hcfg ▸ hsent.allRequests hinv'

end Sys2Proof.Machine

/-! SUPPORT. Which events move ASTATE and the stored address (spec/40_sequencer.md R110, R120, R123, R124, R131). -/
namespace Sys2Proof.Machine
open Sys2Proof

/-! ### The events, by what they do to ASTATE and ADDR -/

/-- The event of instruction `i` in `s` ends in `t`: bytes from the wire, a Tick, one of the events that may move ASTATE or
ADDR, or an event whose work leaves both alone (R110, R131). -/
inductive EventOf (s : State) : Instr → State → Prop where
  | wire {i : Instr} (bs : List Byte) (h : FromWire i) (hb : ∀ b, i = .rxByte b → bs = [b]) : EventOf s i (receiveBytes bs s)
  | tick : EventOf s .tick (tickStep s)
  | trigger {i : Instr} (h : RunsCommand .trigger i) : EventOf s i (triggerStep s)
  | unassign {i : Instr} (h : RunsCommand .unassign i) : EventOf s i (endOfStep (unassignWork s))
  | ctrl (v : Word) : EventOf s (.regWrite .ctrl v) (endOfStep (ctrlWrite v s))
  | reset (nv : Addr) : EventOf s (.reset nv) (resetStep nv s)
  | other {i : Instr} {w : State} (hst : w.seq.astate = s.seq.astate) (haddr : w.host.addr = s.host.addr) :
    EventOf s i (endOfStep w)

/-- A command, in whichever spelling runs it (R223). -/
theorem eventOf_cmdWrite {i : Instr} {v : Word} (hi : RunsCommand (commandOf v) i) (s : State) :
    EventOf s i (cmdWrite v s) := by
  unfold cmdWrite
  cases hc : commandOf v with
  | nop | rxPop | clrErr | txRaw | txLogical => exact .other rfl rfl
  | trigger => exact .trigger (hc ▸ hi)
  | dataEvent => exact .other (by split <;> simp) (by split <;> simp)
  | unassign => exact unassignStep_eq s ▸ .unassign (hc ▸ hi)
  | reserved => exact .other (by simp) (by simp)

/-- Every instruction is one of these events. -/
theorem exec_eventOf {i : Instr} {s t : State} (h : exec i s = .next t) : EventOf s i t := by
  by_cases hwire : FromWire i
  · obtain ⟨bs, hbs, hb⟩ := hwire.exec_eq s
    rw [hbs] at h
    cases h
    exact .wire bs hwire hb
  · cases i with
    | idReq | idResp | reqReq | reqResp | wdReq | wdResp | dataReq | dataResp =>
      exact absurd (.inr (.inr ⟨s.cfg, _, rfl⟩)) hwire
    | unknownType b => exact absurd (.inr (.inl ⟨b, rfl⟩)) hwire
    | rxByte b => exact absurd (.inl ⟨b, rfl⟩) hwire
    | nop => cases h; exact eventOf_cmdWrite (v := 0x00) (.inl rfl) s
    | trigger => cases h; exact eventOf_cmdWrite (v := 0x01) (.inl rfl) s
    | dataEvent => cases h; exact eventOf_cmdWrite (v := 0x02) (.inl rfl) s
    | rxPop => cases h; exact eventOf_cmdWrite (v := 0x03) (.inl rfl) s
    | unassign => cases h; exact eventOf_cmdWrite (v := 0x04) (.inl rfl) s
    | clrErr => cases h; exact eventOf_cmdWrite (v := 0x05) (.inl rfl) s
    | txRaw => cases h; exact eventOf_cmdWrite (v := 0x10) (.inl rfl) s
    | txLogical => cases h; exact eventOf_cmdWrite (v := 0x11) (.inl rfl) s
    | reservedCmdLow | reservedCmdHigh => cases h; exact .other (by simp) (by simp)
    | tick => cases h; exact .tick
    | reset nv => cases h; exact .reset nv
    | regRead r => cases h; exact .other rfl rfl
    | regWrite r v =>
      cases h
      unfold regWriteStep
      split
      · next hr => exact eventOf_cmdWrite (.inr ⟨v, hr ▸ rfl, rfl⟩) s
      · by_cases hr : r = .ctrl
        · exact hr ▸ .ctrl v
        · obtain ⟨hhost, -, hseq, -⟩ := writeReg_of_ne_ctrl hr v s
          exact .other (by rw [hseq]) (by rw [hhost])

/-! ### Bytes from the wire (R119, R120) -/

/-- ASTATE, ADDR and NVLOG are the same in both states. -/
def KeepsAddress (s t : State) : Prop :=
  t.seq.astate = s.seq.astate ∧ t.host.addr = s.host.addr ∧ t.out.nvlog = s.out.nvlog

/-- From REQUESTED to ASSIGNED with the address `a`, which is written out (R120, R131). -/
def StoresAddress (a : Addr) (s t : State) : Prop :=
  s.seq.astate = .requested ∧ t.seq.astate = .assigned ∧ t.host.addr = a ∧ t.out.nvlog = s.out.nvlog ++ [a]

theorem KeepsAddress.refl (s : State) : KeepsAddress s s := ⟨rfl, rfl, rfl⟩

theorem KeepsAddress.trans {s t u : State} (h : KeepsAddress s t) (h' : KeepsAddress t u) : KeepsAddress s u := by
  obtain ⟨hst, haddr, hnv⟩ := h
  obtain ⟨hst', haddr', hnv'⟩ := h'
  exact ⟨hst'.trans hst, haddr'.trans haddr, hnv'.trans hnv⟩

/-- A validated frame stores its address where it is an identification response that is accepted (R119, R120). -/
theorem matchResponse_address (k : MsgClass) (d : Direction) (fb : List Byte) (s : State) :
    KeepsAddress s (matchResponse k d fb s) ∨
    (k = .id ∧ d = .response ∧ StoresAddress (frameAddr fb) s (matchResponse k d fb s)) := by
  rcases matchResponse_cases k d fb s with h | ⟨-, hd, -, -, ⟨hk, ha, hu, h⟩ | ⟨-, -, h⟩⟩
  · exact .inl (by rw [h]; exact .refl s)
  · rw [h, acceptIdentification_eq ⟨ha, hu⟩]
    exact .inr ⟨hk, hd, ha, rfl, rfl, rfl⟩
  · exact .inl (by simp [h, KeepsAddress])

/-- A dispatched frame does to ASTATE, ADDR and NVLOG what its match does: the host copy touches none (R200). -/
theorem dispatchFrame_address (k : MsgClass) (d : Direction) (fb : List Byte) (s : State) :
    KeepsAddress s (dispatchFrame fb k d s) ∨
    (k = .id ∧ d = .response ∧ StoresAddress (frameAddr fb) s (dispatchFrame fb k d s)) := by
  have h := matchResponse_address k d fb (s.setHost (deliveredHost fb k d s.host))
  rw [dispatchFrame_eq]
  simpa [KeepsAddress, StoresAddress] using h

theorem startFrame_address (b : Byte) (s : State) : KeepsAddress s (startFrame b s) := by
  rcases startFrame_cases b s with ⟨-, h⟩ | ⟨-, -, h⟩ | ⟨k, d, -, -, h⟩ <;> simp [h, KeepsAddress]

/-- Byte `b` is the last of a valid identification response (R99, R196). -/
structure EndsIdResponse (b : Byte) (s : State) : Prop where
  byte : b = DELIM
  collecting : s.frx.rxs = .collect
  kind : s.frx.rk = .id
  direction : s.frx.rd = .response
  last : s.frx.rn = 7
  valid : validAt s.cfg.chk (s.frx.rb.setIfInBounds 7 b).toList 8 = true

/-- The address in a frame is in its first bytes, which the last one leaves alone (R83). -/
theorem frameAddr_take_setIfInBounds (rb : Vector Byte 10) (b : Byte) :
    frameAddr ((rb.setIfInBounds 7 b).toList.take 8) = frameAddr rb.toList := by
  have hget (p : Nat) (hp : p < 7) : ((rb.setIfInBounds 7 b).toList.take 8).getD p 0 = rb.toList.getD p 0 := by
    have hset := getD_toList_setIfInBounds rb 7 b p
    rw [if_neg (by omega)] at hset
    rw [← hset, List.getD_eq_getElem?_getD, List.getD_eq_getElem?_getD, List.getElem?_take_of_lt (by omega)]
  simp only [frameAddr, hget 1 (by decide), hget 2 (by decide), hget 3 (by decide), hget 4 (by decide)]

/-- A byte inside a frame stores an address only where it ends an identification response (R120, R196). -/
theorem collectByte_address {b : Byte} {s : State} (hx : s.frx.rxs = .collect) :
    KeepsAddress s (collectByte b s) ∨
    (EndsIdResponse b s ∧ StoresAddress (frameAddr s.frx.rb.toList) s (collectByte b s)) := by
  rcases collectByte_cases b s with ⟨hcand, hv, h⟩ | ⟨-, -, h⟩ | ⟨-, -, -, h⟩ | ⟨-, -, -, h⟩ | ⟨-, h⟩
  · simp only [Bool.and_eq_true, beq_iff_eq, List.contains_iff_mem] at hcand
    obtain ⟨hb, hlen⟩ := hcand
    rw [h, deliver]
    refine (dispatchFrame_address _ _ _ _).imp id fun ⟨hk, hd, hst⟩ => ?_
    simp only [State.setFrx_frx] at hk hd hst
    have hn : s.frx.rn = 7 := by simpa [hk, candLens] using hlen
    rw [hn] at hv hst ⊢
    rw [frameAddr_take_setIfInBounds] at hst
    exact ⟨⟨hb, hx, hk, hd, hn, hv⟩, hst⟩
  · exact .inl (by simp [h, KeepsAddress])
  · rw [h]
    refine .inl (KeepsAddress.trans ?_ (startFrame_address b _))
    simp [KeepsAddress]
  · exact .inl (by simp [h, KeepsAddress])
  · exact .inl (by simp [h, KeepsAddress])

/-- What one byte from the wire can do to ASTATE, ADDR and NVLOG (R110, R120). -/
theorem rxByteStep_address (b : Byte) (s : State) :
    KeepsAddress s (rxByteStep b s) ∨
    (EndsIdResponse b s ∧ StoresAddress (frameAddr s.frx.rb.toList) s (rxByteStep b s)) := by
  have hend (u : State) (h : KeepsAddress s u ∨ (EndsIdResponse b s ∧ StoresAddress (frameAddr s.frx.rb.toList) s u)) :
      KeepsAddress s (endOfStep u) ∨ (EndsIdResponse b s ∧ StoresAddress (frameAddr s.frx.rb.toList) s (endOfStep u)) := by
    simpa [KeepsAddress, StoresAddress] using h
  refine hend _ ?_
  unfold receiveByte
  split
  · split
    · unfold huntByte
      split <;> exact .inl (.refl s)
    · exact .inl (startFrame_address b s)
    · next hx => exact collectByte_address hx
  · exact .inl (.refl s)

/-- A stretch of the wire stores at most one address: once ASSIGNED, no response is one to an identification (R120). -/
theorem receiveBytes_address (bs : List Byte) (s : State) :
    KeepsAddress s (receiveBytes bs s) ∨ ∃ a, StoresAddress a s (receiveBytes bs s) := by
  induction bs generalizing s with
  | nil => exact .inl (.refl s)
  | cons b bs ih =>
    change KeepsAddress s (receiveBytes bs (rxByteStep b s)) ∨ ∃ a, StoresAddress a s (receiveBytes bs (rxByteStep b s))
    rcases rxByteStep_address b s with hkeeps | ⟨-, hreq, hst, haddr, hnv⟩
    · refine (ih (rxByteStep b s)).imp hkeeps.trans (Exists.imp fun a => ?_)
      rintro ⟨hreq', hst', haddr', hnv'⟩
      obtain ⟨hst, -, hnv⟩ := hkeeps
      exact ⟨hst.symm.trans hreq', hst', haddr', by rw [hnv', hnv]⟩
    · rcases ih (rxByteStep b s) with ⟨hst', haddr', hnv'⟩ | ⟨a, hreq', -⟩
      · exact .inr ⟨_, hreq, hst'.trans hst, haddr'.trans haddr, hnv'.trans hnv⟩
      · rw [hst] at hreq'
        cases hreq'

/-! ### The stored address (R131, R281) -/

theorem tickStep_addr (s : State) : (tickStep s).host.addr = s.host.addr := by
  rw [tickStep_eq, tickWork_eq]
  split <;> simp

theorem triggerStep_addr (s : State) : (triggerStep s).host.addr = s.host.addr := by
  unfold triggerStep
  split <;> simp

/-- Settles O36: only an accepted identification and UNASSIGN move the address, and each writes it out once. -/
theorem addressChangePersisted : Obligations.AddressChangePersisted := by
  intro i s t he hreset hne
  cases exec_eventOf he with
  | wire bs =>
    rcases receiveBytes_address bs s with ⟨-, haddr, -⟩ | ⟨a, -, -, haddr, hnv⟩
    · exact absurd haddr hne
    · rw [hnv, haddr]
  | tick => exact absurd (tickStep_addr s) hne
  | trigger => exact absurd (triggerStep_addr s) hne
  | unassign => rw [endOfStep_nvlog, endOfStep_host, unassignWork_eq]
  | ctrl v => exact absurd (by rw [endOfStep_host, ctrlWrite_host]) hne
  | reset nv => exact absurd rfl (hreset nv)
  | other _ haddr => exact absurd (by rw [endOfStep_host, haddr]) hne

/-! ### ASTATE (R110) -/

/-- Only the end of the identification wait moves ASTATE in a Tick (R118). -/
theorem expire_astate {c : MsgClass} (hc : c ≠ .id) (s : State) : (expire c s).seq.astate = s.seq.astate := by
  rcases expire_cases c s with ⟨-, h⟩ | ⟨-, hid, -⟩ | ⟨-, -, h⟩
  · simp [h]
  · exact absurd hid hc
  · simp [h]

theorem tickStep_astate (s : State) :
    (tickStep s).seq.astate = s.seq.astate ∨
    ((tickStep s).seq.astate = .unassigned ∧ s.host.ctrl.seqEn = true ∧ HasSlot s .id ∧
      (s.table.get .id).wait.toNat ≤ s.seq.wcnt.toNat + 1) := by
  cases hon : s.host.ctrl.seqEn with
  | false => exact .inl (by rw [tickStep_eq, hon]; simp)
  | true =>
    rw [tickStep_of_on hon, endOfStep_seq, arbitrate_astate]
    rcases waitStep_cases (clocked s) with ⟨-, he⟩ | ⟨-, -, he⟩ | ⟨hinfl, hle, he⟩
    · exact .inl (by rw [he, clocked_astate])
    · exact .inl (by rw [he, State.waited_astate, clocked_astate])
    · rw [he]
      rw [clocked_scls] at hle ⊢
      by_cases hid : s.seq.scls = .id
      · obtain ⟨n, -, -, hslot⟩ := clocked_of_not_periodEnds (s := s) (c := .id) fun h => not_counts (.inl rfl) h.1
        have hheld : HasSlot (clocked s) .id := ⟨hinfl, by rw [clocked_scls, hid]⟩
        rw [hid] at hle ⊢
        refine .inr ⟨?_, rfl, hslot.mp hheld, by simpa [State.wait] using hle⟩
        simp [expire_id ((hasSlot_waited _ _).mpr hheld)]
      · exact .inl (by rw [expire_astate hid, State.waited_astate, clocked_astate])

theorem triggerStep_astate (s : State) :
    (triggerStep s).seq.astate = s.seq.astate ∨
    (s.seq.astate = .unassigned ∧ (triggerStep s).seq.astate = .requested ∧ s.host.ctrl.seqEn = true) := by
  unfold triggerStep
  split
  · next h => exact .inr ⟨h.2, by simp, h.1⟩
  · exact .inl (by simp)

/-- Settles O35: event by event, what each does to ASTATE; the invariants rule an identification wait out in ASSIGNED, and
give SEQ_EN and the address of an accepted identification. -/
theorem aStateTransitions : Obligations.AStateTransitions := by
  intro i s t hinv he hreset
  have hinv' : SequencerInv t := SequencerInv.kept.exec hinv he
  have hcfg : t.cfg = s.cfg := (configurationNeverChanges i s t he).1
  by_cases hsame : t.seq.astate = s.seq.astate
  · exact ⟨fun h => .inl (hsame.trans h), fun h => .inl (hsame.trans h), fun h => .inl (hsame.trans h)⟩
  have hfrom {a b : AState} (ha : s.seq.astate = a) (hab : a ≠ b) {P : Prop} (hb : s.seq.astate = b) : P :=
    absurd (ha.symm.trans hb) hab
  have hrequested (hr : s.seq.astate = .requested) : s.host.ctrl.seqEn = true :=
    ((hinv.classInv .id).runs (hinv.id_active.mpr hr)).1
  cases exec_eventOf he with
  | wire bs hwire hb =>
    rcases receiveBytes_address bs s with ⟨hst, -⟩ | ⟨a, hreq, hst, haddr, -⟩
    · exact absurd hst hsame
    refine ⟨hfrom hreq (by decide), fun _ => .inr (.inl ⟨hst, hwire, hrequested hreq, ?_, fun b hi => ?_⟩),
      hfrom hreq (by decide)⟩
    · exact hcfg ▸ hinv'.assigned_addr.mp hst
    · rw [hb b hi] at hsame ⊢
      rcases rxByteStep_address b s with ⟨hst', -⟩ | ⟨hends, -, -, haddr', -⟩
      · exact absurd hst' hsame
      · exact ⟨hends.byte, hends.collecting, hends.kind, hends.direction, hends.last, hends.valid, haddr'⟩
  | tick =>
    rcases tickStep_astate s with hst | ⟨hst, hon, ⟨hinfl, hscls⟩, hle⟩
    · exact absurd hst hsame
    have hreq : s.seq.astate = .requested := hinv.id_active.mp (hscls ▸ (hinv.slot hinfl).1)
    exact ⟨hfrom hreq (by decide), fun _ => .inr (.inr ⟨hst, .inl ⟨rfl, hon, hinfl, hscls, hle⟩⟩), hfrom hreq (by decide)⟩
  | trigger htrigger =>
    rcases triggerStep_astate s with hst | ⟨hun, hst, hon⟩
    · exact absurd hst hsame
    exact ⟨fun _ => .inr ⟨hst, htrigger, hon⟩, hfrom hun (by decide), hfrom hun (by decide)⟩
  | unassign hun =>
    have hst : (endOfStep (unassignWork s)).seq.astate = .unassigned := by
      rw [endOfStep_seq, arbitrate_astate, unassignWork_eq]
    exact ⟨fun _ => .inl hst, fun _ => .inr (.inr ⟨hst, .inr (.inl hun)⟩), fun _ => .inr ⟨hst, hun⟩⟩
  | ctrl v =>
    rw [endOfStep_seq, arbitrate_astate, ctrlWrite_astate] at hsame ⊢
    split at hsame
    · next hfalls =>
      obtain ⟨⟨hon, hoff⟩, hreq⟩ := hfalls
      rw [if_pos ⟨⟨hon, hoff⟩, hreq⟩]
      exact ⟨hfrom hreq (by decide), fun _ => .inr (.inr ⟨rfl, .inr (.inr ⟨v, rfl, hon, hoff⟩)⟩), hfrom hreq (by decide)⟩
    · exact absurd rfl hsame
  | reset nv => exact absurd rfl (hreset nv)
  | other hst => exact absurd (by rw [endOfStep_seq, arbitrate_astate, hst]) hsame

end Sys2Proof.Machine

/-! SUPPORT. The response types (spec/41_response_type.md): what Classify finds, and the RTD register, read and written.
-/
namespace Sys2Proof.Machine
open Sys2Proof

/-! ### The type codes and Classify (R161, R164) -/

/-- Settles O7: bit 5 of a type code is its direction and the other bits are its class's code, and these are distinct. -/
theorem typeCodesDistinct : Obligations.TypeCodesDistinct :=
  fun tc => ⟨fun _ _ _ _ => (typeCode_inj tc).mp, fun _ => rfl⟩

/-- Classify answers a class and direction exactly for their type code (R161). -/
theorem classify_eq_some_iff {tc : TypeCodes} {code : Byte} {k : MsgClass} {d : Direction} :
    classify tc code = some (k, d) ↔ code = typeCode tc k d :=
  ⟨eq_typeCode_of_classify, by rintro rfl; exact classify_typeCode tc k d⟩

/-- The delimiter is UNKNOWN: no type code is equal to it (R90, R161). -/
theorem classify_delim (tc : TypeCodes) : classify tc DELIM = none := by
  rw [Option.eq_none_iff_forall_ne_some]
  rintro ⟨k, d⟩ h
  exact typeCode_ne_delim tc k d (classify_eq_some_iff.mp h).symm

/-- The type code by its direction, as R160 and R161 write it. -/
theorem typeCode_eq_ite (tc : TypeCodes) (k : MsgClass) (d : Direction) :
    typeCode tc k d = if d = .request then tc.code.get k else tc.code.get k ||| 0x20 := by
  cases d <;> rfl

/-- Settles O8: a byte classifies as (k, d) exactly when it is their type code, and the delimiter is none. -/
theorem classifyFindsTheTypeCodes : Obligations.ClassifyFindsTheTypeCodes := by
  refine fun tc code => ⟨fun k d => ?_, classify_delim tc⟩
  rw [← typeCode_eq_ite]
  exact classify_eq_some_iff

/-! ### The RTD view (R162) -/

/-- The fields of RTD (R162). -/
theorem rtdWord_fields (tc : TypeCodes) (b : Byte) :
    FieldAt (rtdWord tc b) 0 b ∧ FieldAt (rtdWord tc b) 8 (b ||| 0x20) ∧
    FieldAt (rtdWord tc b) 16 (BitVec.ofBool ((classify tc b).any fun x => x.2 == .request)) ∧
    FieldAt (rtdWord tc b) 17 (BitVec.ofBool ((classify tc b).any fun x => x.2 == .response)) ∧
    FieldAt (rtdWord tc b) 18 (((classify tc b).map fun x => x.1.toBits).getD 0) ∧
    FieldAt (rtdWord tc b) 20 (0 : BitVec 12) :=
  ⟨.low, .high .low, .high (.high .low), .high (.high (.high .low)), .high (.high (.high (.high .low))),
    .high (.high (.high (.high (.high (.whole _)))))⟩

/-- A classification has direction `d` exactly when it is some class in that direction. -/
theorem any_direction_iff (r : Option (MsgClass × Direction)) (d : Direction) :
    (r.any fun x => x.2 == d) = true ↔ ∃ k, r = some (k, d) := by
  rw [Option.any_eq_true]
  constructor
  · rintro ⟨⟨k, d'⟩, hr, hd⟩
    obtain rfl : d' = d := eq_of_beq hd
    exact ⟨k, hr⟩
  · rintro ⟨k, hr⟩
    exact ⟨(k, d), hr, beq_self_eq_true d⟩

/-- Settles O9: the read itself by O44's statement, the fields of its value by their places in the view. -/
theorem rtdViewReads : Obligations.RtdViewReads := by
  intro s hs
  obtain ⟨hin, hderived, hreq, hresp, hkind, hzero⟩ := rtdWord_fields s.cfg.tc s.host.rtdIn
  refine ⟨readReg s .rtd, regReadHasNoSideEffect s .rtd hs, hin, hderived, ?_, ?_, fun k d hc => ?_, fun hc => ?_, hzero⟩
  · rw [← any_direction_iff]
    exact hreq.bit ▸ Iff.rfl
  · rw [← any_direction_iff]
    exact hresp.bit ▸ Iff.rfl
  · exact hkind.trans (by rw [hc]; rfl)
  · exact hkind.trans (by rw [hc]; rfl)

/-! ### The RTD write (R163) -/

/-- Arbitration and IRQ look at CTRL, INTSTAT and INTEN alone among the host registers (R233). -/
theorem Settled.setHost {s : State} (h : Settled s) {g : HostRegs} (hctrl : g.ctrl = s.host.ctrl)
    (hstat : g.intstat = s.host.intstat) (hen : g.inten = s.host.inten) : Settled (s.setHost g) where
  arbitrated := fun hon => h.arbitrated (hctrl ▸ hon)
  irq := h.irq.trans (by simp only [irqLevel, State.setHost_host, hstat, hen])

/-- The low lane of a word is its low byte (R63). -/
theorem lane_zero_eq_setWidth (v : Word) : lane v 0 = v.setWidth 8 :=
  (BitVec.setWidth_eq_extractLsb' (by decide)).symm

/-- Settles O10: the write stores the low lane, and the end of the step leaves the settled state alone. -/
theorem rtdWriteSetsInput : Obligations.RtdWriteSetsInput := by
  intro s v hs
  have hstep : regWriteStep .rtd v s = s.setHost { s.host with rtdIn := lane v 0 } :=
    endOfStep_of_settled (hs.setHost rfl rfl rfl)
  rw [lane_zero_eq_setWidth] at hstep
  exact congrArg Host.Outcome.next hstep

end Sys2Proof.Machine

/-! SUPPORT. The field encoders and the host's transmit commands (spec/42_field_encoding.md): the digits they send, the frame
they compose for each class, and the round trip of a received frame.
-/
namespace Sys2Proof.Machine
open Sys2Proof

/-! ### The field encoders (R170, R171) -/

/-- The ASCII byte of a decimal digit does not wrap. -/
theorem asciiDigit_toNat {x : Byte} (hx : x.toNat < 10) : (0x30 + x).toNat = 0x30 + x.toNat := by
  bv_omega

/-- Settles O11: the remainder is a digit, whatever the input. -/
theorem encodersWrapToDigits : Obligations.EncodersWrapToDigits := by
  intro v
  have hbool : (v % 2).toNat = v.toNat % 2 := BitVec.toNat_umod
  have hbatt : (v % 10).toNat = v.toNat % 10 := BitVec.toNat_umod
  exact ⟨hbool ▸ asciiDigit_toNat (by omega), hbatt ▸ asciiDigit_toNat (by omega)⟩

/-- EncBatt gives back the digit byte whose level it is given (R171, R178). -/
theorem encBatt_sub_of_digit {b : Byte} (hlo : 0x30 ≤ b.toNat) (hhi : b.toNat ≤ 0x39) : encBatt (b - 0x30) = b := by
  have hlevel : (b - 0x30).toNat = b.toNat - 0x30 := BitVec.toNat_sub_of_le hlo
  apply BitVec.eq_of_toNat_eq
  rw [(encodersWrapToDigits _).2, hlevel]
  omega

/-! ### The composed frame (R174) -/

section Compose
variable {s : State} {raw : Bool}

/-- An identification request carries IDCFG (R82, R174). -/
theorem composeHost_idReq (hk : s.host.txcfg.kind = .id) (hd : s.host.txcfg.dir = .request) :
    composeHost raw s =
      idReqFrame s.cfg s.host.idcfg.devtype s.host.idcfg.mod0 s.host.idcfg.mod1 s.host.idcfg.mod2 := by
  simp only [composeHost, hk, hd]

/-- An identification response carries TXADDR (R83, R174). -/
theorem composeHost_idResp (hk : s.host.txcfg.kind = .id) (hd : s.host.txcfg.dir = .response) :
    composeHost raw s = idRespFrame s.cfg s.host.txaddr := by
  simp only [composeHost, hk, hd]

/-- Every other class carries TXADDR, the value, raw or encoded, and the battery digit where BP is set (R84, R174). -/
theorem composeHost_base (hk : s.host.txcfg.kind ≠ .id) :
    composeHost raw s = baseFrame s.cfg s.host.txcfg.kind s.host.txcfg.dir s.host.txaddr
      (if raw then s.host.txcfg.value else encBool s.host.txcfg.value)
      (if s.host.txcfg.bp then some (encBatt s.host.txcfg.batt) else none) := by
  cases h : s.host.txcfg.kind with
  | id => exact absurd h hk
  | req | wd | data => simp only [composeHost, h]

end Compose

/-! ### The transmit commands (R175, R176) -/

/-- A frame on TXLOG is no concern of arbitration or of IRQ (R233). -/
theorem Settled.emitFrame {s : State} (h : Settled s) (f : List Byte) : Settled (emitFrame f s) := ⟨h.arbitrated, h.irq⟩

/-- A transmit command emits the composed frame, and its end of step leaves a settled state alone. -/
theorem exec_transmit {s : State} (hs : Settled s) (raw : Bool) :
    exec (if raw then .txRaw else .txLogical) s = .next (emitFrame (composeHost raw s) s) := by
  cases raw <;> exact congrArg Host.Outcome.next (endOfStep_of_settled (hs.emitFrame _))

/-- Settles O12: the composed frame, class by class. -/
theorem hostTransmitSendsFrame : Obligations.HostTransmitSendsFrame := by
  intro s raw hs tx code addr val payload body f
  have hcode : typeCode s.cfg.tc tx.kind tx.dir = code := typeCode_eq_ite _ _ _
  have hf : f = frame s.cfg.chk (typeCode s.cfg.tc tx.kind tx.dir) payload := by rw [hcode]; rfl
  suffices hcompose : composeHost raw s = f by rw [exec_transmit hs, hcompose]; rfl
  rw [hf]
  by_cases hk : tx.kind = .id
  · cases hd : tx.dir with
    | request =>
      have hpayload : payload = [s.host.idcfg.devtype, s.host.idcfg.mod0, s.host.idcfg.mod1, s.host.idcfg.mod2] := by
        simp only [payload, hk, hd, if_true]
      rw [composeHost_idReq hk hd, hpayload, hk]
      rfl
    | response =>
      have hpayload : payload = addr := by simp only [payload, hk, hd, if_true, reduceCtorEq, if_false]
      rw [composeHost_idResp hk hd, hpayload, hk]
      rfl
  · have hbatt : (if tx.bp then some (encBatt tx.batt) else none).toList = if tx.bp then [0x30 + tx.batt % 10] else [] := by
      split <;> rfl
    have hpayload : payload = addr ++ val :: (if tx.bp then some (encBatt tx.batt) else none).toList := by
      simp only [payload, hk, if_false, hbatt, List.append_assoc, List.singleton_append]
    rw [composeHost_base hk, hpayload]
    rfl

/-! ### The round trip (R178) -/

/-- A descriptor set from a frame sends the frame's own battery byte, or none where it has none (R171, R177). -/
theorem descriptorBatt_eq_frameBatt {fb : List Byte}
    (hdigit : fb.length = 10 → 0x30 ≤ (fb.getD 6 0).toNat ∧ (fb.getD 6 0).toNat ≤ 0x39) :
    (if decide (fb.length = 10) then some (encBatt (fb.getD 6 0 - 0x30)) else none) = frameBatt fb := by
  simp only [frameBatt, decide_eq_true_eq]
  split
  · next h10 =>
    obtain ⟨hlo, hhi⟩ := hdigit h10
    rw [encBatt_sub_of_digit hlo hhi]
  · rfl

/-- The base-shape candidate lengths (R198). -/
theorem mem_candLens_of_ne_id {k : MsgClass} (hk : k ≠ .id) {n : Nat} : n ∈ candLens k ↔ n = 9 ∨ n = 10 := by
  cases k with
  | id => exact absurd rfl hk
  | req | wd | data => simp [candLens]

/-- Settles O13: the descriptor's fields are the frame's, and a validated frame is the frame of its fields. -/
theorem txRawRoundTrip : Obligations.TxRawRoundTrip := by
  intro s fb k d hs hclass hlen hends hdigit htx hregs
  have htype : fb.getD 0 0 = typeCode s.cfg.tc k d := eq_typeCode_of_classify hclass
  have hkind : s.host.txcfg.kind = k := by rw [htx]
  have hdir : s.host.txcfg.dir = d := by rw [htx]
  suffices hfb : composeHost true s = fb from hfb ▸ exec_transmit hs true
  by_cases hk : k = .id
  · subst hk
    have h8 : fb.length = 8 := by simpa [candLens] using hlen
    have hframe := frame_of_endsAt_eight h8 (h8 ▸ hends)
    rw [htype] at hframe
    cases d with
    | request =>
      rw [if_pos ⟨rfl, rfl⟩] at hregs
      rw [composeHost_idReq hkind hdir, hregs]
      exact hframe
    | response =>
      rw [if_neg (by simp)] at hregs
      rw [composeHost_idResp hkind hdir, hregs]
      exact hframe
  · have hframe := frame_of_endsAt_base ((mem_candLens_of_ne_id hk).mp hlen) hends
    rw [htype] at hframe
    rw [if_neg (hk ·.1)] at hregs
    rw [composeHost_base (hkind ▸ hk), hregs, htx, if_pos rfl, descriptorBatt_eq_frameBatt hdigit]
    exact hframe

end Sys2Proof.Machine

/-! SUPPORT. The receiver one byte at a time (spec/43_framing_checksum.md R194 to R202): what each byte leaves of the state in
each case of the scan, and what an overrun and RX_EN leave. -/
namespace Sys2Proof.Machine
open Sys2Proof

/-! ### Overrun (R201) -/

/-- Settles O16: an overrun moves RX_OVR and INTSTAT, and the sequencer moves no register that holds the frame. -/
theorem overrunKeepsHeldFrame : Obligations.OverrunKeepsHeldFrame := by
  intro fb k d s hfull
  have hover : deliveredHost fb k d s.host = { s.host with rxOvr := true, intstat := s.host.intstat ||| 0x20 } :=
    if_pos hfull
  have he := dispatchFrame_eq fb k d s
  rw [hover] at he
  refine ⟨he, ?_⟩
  rw [he, matchResponse_host]
  exact ⟨rfl, rfl, rfl, rfl, hfull⟩

/-! ### RX_EN falls (R202) -/

/-- A CTRL write under which no class's enable falls stores CTRL and does what RX_EN does (R202, R222). -/
theorem ctrlWrite_of_stays {v : Word} {s : State} (hstays : ∀ c, ¬ EnableFalls s.host.ctrl (ctrlOf v) c) :
    ctrlWrite v s = rxTransition s.host.ctrl (ctrlOf v) (s.setHost { s.host with ctrl := ctrlOf v }) := by
  have hclass (t : State) (c : MsgClass) : classTransition s.host.ctrl (ctrlOf v) t c = t :=
    if_neg (not_or.mp (hstays c)).2
  have hseq (t : State) : seqTransition s.host.ctrl (ctrlOf v) t = t := if_neg (not_or.mp (hstays .id)).1
  simp only [ctrlWrite_eq, classTransitions, List.foldl_cons, List.foldl_nil, hclass, hseq]

/-- No enable of CTRL makes a settled state send: what SEQ_EN held back is no live transaction (R124). -/
theorem Settled.quiet_setCtrl {s : State} (hs : Settled s) (hinv : SequencerInv s) (c : Ctrl) :
    Quiet (s.setHost { s.host with ctrl := c }) := by
  cases hon : s.host.ctrl.seqEn with
  | true => exact fun _ hfree => hs.arbitrated hon hfree
  | false => exact quiet_of_not_pend fun k => ((hinv.classInv k).idle ((hinv.seq_off hon).2 k).1).1

/-- Settles O53: the CTRL write's frame; where no other enable falls, the sequencer is not touched and nothing falls due. -/
theorem receiverDisableDiscards : Obligations.ReceiverDisableDiscards := by
  intro s v hon hoff
  obtain ⟨hread, hhost, htable, hfrx, hout⟩ := endOfStep_ctrlWrite_frame v s
  refine ⟨endOfStep (ctrlWrite v s), rfl, hread, hfrx.trans (if_pos ⟨hon, hoff⟩), hhost, htable, hout,
    fun hseq hen hinv hs => ?_⟩
  have hstays (c : MsgClass) : ¬ EnableFalls s.host.ctrl (ctrlOf v) c := by
    rintro (⟨hold, hnew⟩ | ⟨hold, hnew⟩)
    · exact Bool.false_ne_true (hnew.symm.trans (hseq hold))
    · exact Bool.false_ne_true (hnew.symm.trans (hen c hold))
  have hfalls : s.host.ctrl.rxEn = true ∧ (ctrlOf v).rxEn = false := ⟨hon, hoff⟩
  have hwrite : ctrlWrite v s = receiverDisable (s.setHost { s.host with ctrl := ctrlOf v }) :=
    (ctrlWrite_of_stays hstays).trans (if_pos hfalls)
  have hquiet : Quiet (ctrlWrite v s) := hwrite ▸ (hs.quiet_setCtrl hinv (ctrlOf v)).of_eq rfl rfl
  rw [endOfStep_of_quiet hquiet, hwrite]
  exact ⟨rfl, rfl⟩

/-! ### HUNT (R197) -/

/-- A byte in HUNT is discarded, and a delimiter ends the hunt; the end of the step has nothing to do (R194, R197). -/
theorem rxByteStep_of_hunt {s : State} (hs : Settled s) (hon : s.host.ctrl.rxEn = true) (hx : s.frx.rxs = .hunt) (b : Byte) :
    rxByteStep b s = if b = DELIM then s.setFrx { s.frx with rxs := .idle } else s := by
  have hrecv : receiveByte b s = huntByte b s := by simp only [receiveByte, hon, hx, if_true]
  rw [rxByteStep, hrecv, huntByte]
  split
  · exact endOfStep_of_settled (hs.setFrx _)
  · exact endOfStep_of_settled hs

/-- A stretch without a delimiter is discarded whole (R197). -/
theorem receiveBytes_of_hunt {s : State} (hs : Settled s) (hon : s.host.ctrl.rxEn = true) (hx : s.frx.rxs = .hunt)
    {bs : List Byte} (hbs : DELIM ∉ bs) : receiveBytes bs s = s := by
  induction bs with
  | nil => rfl
  | cons b bs ih =>
    obtain ⟨hb, hrest⟩ := not_or.mp (mt List.mem_cons.mpr hbs)
    calc receiveBytes (b :: bs) s = receiveBytes bs (rxByteStep b s) := rfl
      _ = receiveBytes bs s := by rw [rxByteStep_of_hunt hs hon hx, if_neg (Ne.symm hb)]
      _ = s := ih hrest

/-- Settles O18: byte by byte up to the delimiter, by induction on the stretch before it. -/
theorem huntEndsAtDelimiter : Obligations.HuntEndsAtDelimiter := by
  intro s hs hon hx
  refine ⟨fun b => congrArg Host.Outcome.next (rxByteStep_of_hunt hs hon hx b), fun bs hbs => ?_⟩
  have hstretch := receiveBytes_of_hunt hs hon hx hbs
  refine ⟨hstretch, ?_⟩
  rw [receiveBytes_append, hstretch, receiveBytes_singleton, rxByteStep_of_hunt hs hon hx, if_pos rfl]
  rfl

/-! ### A byte inside a frame, case by case (R196) -/

section Collect
variable {s : State} {b : Byte}

/-- The receiver with the frame's bytes, the last one included, put aside: in the state `x`, with nothing held (R196). -/
def Receiver.ended (f : Receiver) (x : RxState) (b : Byte) : Receiver :=
  { f with rxs := x, rb := f.rb.setIfInBounds f.rn b, rn := 0, rsd := false }

/-- The receiver with one more byte of the frame stored, and RSD set where `failed` (R196). -/
def Receiver.stored (f : Receiver) (b : Byte) (failed : Bool) : Receiver :=
  { f with rb := f.rb.setIfInBounds f.rn b, rn := f.rn + 1, rsd := f.rsd || failed }

/-- A byte ends a valid candidate of the frame being received (R196, R199). -/
def EndsCandidate (s : State) (b : Byte) : Prop :=
  b = DELIM ∧ s.frx.rn + 1 ∈ candLens s.frx.rk ∧
    validAt s.cfg.chk (s.frx.rb.setIfInBounds s.frx.rn b).toList (s.frx.rn + 1) = true

theorem countEvent_setFrx (e : Event) (s : State) (f : Receiver) :
    countEvent e (s.setFrx f) = (countEvent e s).setFrx f := by cases e <;> rfl

/-- A byte inside a frame that ends no valid candidate: below the maximum length it is stored; at the maximum length the frame
is discarded as ERR_CHK or ERR_FRAME, or its last byte starts the next frame (R196). -/
theorem collectByte_of_not_ends (hno : ¬ EndsCandidate s b) :
    collectByte b s =
      if s.frx.rn + 1 ≠ maxLen s.frx.rk then
        s.setFrx (s.frx.stored b (decide (b = DELIM ∧ s.frx.rn + 1 ∈ candLens s.frx.rk)))
      else if b = DELIM then (countEvent .errChk s).setFrx (s.frx.ended .idle b)
      else if s.frx.rsd then startFrame b ((countEvent .errChk s).setFrx (s.frx.ended .idle b))
      else (countEvent .errFrame s).setFrx (s.frx.ended .hunt b) := by
  rcases collectByte_cases b s with ⟨hcand, hv, -⟩ | ⟨hmax, hb, he⟩ | ⟨hmax, hb, hr, he⟩ | ⟨hmax, hb, hr, he⟩ | ⟨hmax, he⟩
  · simp only [Bool.and_eq_true, beq_iff_eq, List.contains_iff_mem] at hcand
    exact absurd ⟨hcand.1, hcand.2, hv⟩ hno
  · rw [he, if_neg (not_not.mpr hmax), if_pos hb, countEvent_setFrx]
    rfl
  · rw [he, if_neg (not_not.mpr hmax), if_neg hb, if_pos hr, countEvent_setFrx]
    rfl
  · rw [he, if_neg (not_not.mpr hmax), if_neg hb, hr, countEvent_setFrx]
    rfl
  · rw [he, if_pos hmax, Receiver.stored, Bool.decide_and, Bool.beq_eq_decide_eq, List.contains_eq_mem]

/-- A byte stored inside a frame changes nothing but the receiver (R196). -/
theorem rxByteStep_of_stored (hs : Settled s) (hon : s.host.ctrl.rxEn = true) (hx : s.frx.rxs = .collect)
    (hmax : s.frx.rn + 1 ≠ maxLen s.frx.rk) (hno : ¬ EndsCandidate s b) :
    rxByteStep b s = s.setFrx (s.frx.stored b (decide (b = DELIM ∧ s.frx.rn + 1 ∈ candLens s.frx.rk))) := by
  rw [rxByteStep_of_collect hx hon, collectByte_of_not_ends hno, if_pos hmax, endOfStep_of_settled (hs.setFrx _)]

/-- A delimiter at the maximum length that ends no valid candidate discards the frame as ERR_CHK (R196, R253). -/
theorem rxByteStep_of_failed (hon : s.host.ctrl.rxEn = true) (hx : s.frx.rxs = .collect)
    (hmax : s.frx.rn + 1 = maxLen s.frx.rk) (hb : b = DELIM) (hno : ¬ EndsCandidate s b) :
    rxByteStep b s = endOfStep ((countEvent .errChk s).setFrx (s.frx.ended .idle b)) := by
  rw [rxByteStep_of_collect hx hon, collectByte_of_not_ends hno, if_neg (not_not.mpr hmax), if_pos hb]

/-- The end of a step that recorded errors and moved the receiver: IRQ follows, and nothing is sent (R233, R251). -/
theorem Settled.endOfStep_of_host_frx (hs : Settled s) {h : HostRegs} (hctrl : h.ctrl = s.host.ctrl) (f : Receiver) :
    endOfStep ((s.setHost h).setFrx f) = { s with host := h, frx := f, out := { s.out with irq := irqLevel h } } :=
  endOfStep_of_quiet (hs.quiet.of_eq (congrArg Ctrl.seqEn hctrl) rfl)

end Collect

/-- The maximum length of a base-shape frame (R198). -/
theorem maxLen_of_ne_id {k : MsgClass} (hk : k ≠ .id) : maxLen k = 10 := by
  cases k with
  | id => exact absurd rfl hk
  | req | wd | data => rfl

/-- Settles O19: in each case the byte's own lemma. -/
theorem receiverStoresFrameBytes : Obligations.ReceiverStoresFrameBytes := by
  intro s b hs hon
  refine ⟨fun k d hx hc => ?_, fun hx hmax hb => ?_, fun hx hb hn hv => ?_, fun hx hb hn hid hv => ?_⟩
  · rw [eq_typeCode_of_classify hc]
    exact congrArg Host.Outcome.next (rxByteStep_of_type hs hon hx k d)
  · have hcand : ¬ (b = DELIM ∧ s.frx.rn + 1 ∈ candLens s.frx.rk) := not_and_or.mpr hb
    have hno : ¬ EndsCandidate s b := fun ⟨hdelim, hmem, _⟩ => hcand ⟨hdelim, hmem⟩
    refine congrArg Host.Outcome.next ((rxByteStep_of_stored hs hon hx hmax hno).trans ?_)
    rw [decide_eq_false hcand, Receiver.stored, Bool.or_false]
    rfl
  · refine ⟨congrArg Host.Outcome.next ?_, by simp, by simp, fun hfree => copiedToHost_dispatchFrame _ _ _ _ hfree⟩
    rw [rxByteStep_of_collect hx hon, collectByte_of_ends hb hn hv]
    rfl
  · have hmem : s.frx.rn + 1 ∈ candLens s.frx.rk := (mem_candLens_of_ne_id hid).mpr (.inl hn)
    have hmax : s.frx.rn + 1 ≠ maxLen s.frx.rk := by
      rw [hn, maxLen_of_ne_id hid]
      decide
    have hno : ¬ EndsCandidate s b := fun ⟨_, _, hvalid⟩ => Bool.false_ne_true (hv.symm.trans (hn ▸ hvalid))
    refine congrArg Host.Outcome.next ((rxByteStep_of_stored hs hon hx hmax hno).trans ?_)
    rw [decide_eq_true ⟨hb, hmem⟩, Receiver.stored, Bool.or_true, hn]
    rfl

/-! ### A frame discarded at its maximum length (R196, R253, R254) -/

/-- Settles O20: the frame is discarded with its event, and IRQ follows. -/
theorem discardAtMaximumLength : Obligations.DiscardAtMaximumLength := by
  intro s b hs hon hx hmax
  refine ⟨fun hb hv => ⟨_, rfl, congrArg Host.Outcome.next ?_⟩, fun hb hr => ⟨_, rfl, congrArg Host.Outcome.next ?_⟩⟩
  · have hno : ¬ EndsCandidate s b := fun ⟨_, _, hvalid⟩ => Bool.false_ne_true (hv.symm.trans (hmax ▸ hvalid))
    rw [rxByteStep_of_failed hon hx hmax hb hno, ← satInc_byte]
    exact hs.endOfStep_of_host_frx (by rfl) _
  · have hno : ¬ EndsCandidate s b := fun h => hb h.1
    rw [rxByteStep_of_collect hx hon, collectByte_of_not_ends hno, if_neg (not_not.mpr hmax), if_neg hb, hr,
      ← satInc_byte]
    exact hs.endOfStep_of_host_frx (by rfl) _

/-- A type code starts its frame (R195). -/
theorem startFrame_of_type {s : State} {b : Byte} {k : MsgClass} {d : Direction} (hb : b ≠ DELIM)
    (hc : classify s.cfg.tc b = some (k, d)) :
    startFrame b s = s.setFrx ⟨.collect, s.frx.rb.setIfInBounds 0 b, 1, k, d, false⟩ := by
  simp only [startFrame, if_neg hb, hc]

/-- A byte that is no type code starts the hunt (R195, R252). -/
theorem startFrame_of_unknown {s : State} {b : Byte} (hb : b ≠ DELIM) (hc : classify s.cfg.tc b = none) :
    startFrame b s = (countEvent .errType s).setFrx { s.frx with rxs := .hunt } := by
  simp only [startFrame, if_neg hb, hc, countEvent_frx]

/-- Raising an interrupt bit again changes nothing (R41). -/
theorem raiseInt_raiseInt (x : IntSource) (v : BitVec 6) : raiseInt x (raiseInt x v) = raiseInt x v := by
  simp [raiseInt, BitVec.or_assoc]

/-- Two errors in one step: both counters move, ERR is raised once for both (R251, R260). -/
theorem countEvent_errType_errChk (s : State) :
    countEvent .errType (countEvent .errChk s) = s.setHost { s.host with
      cnt := { s.host.cnt with errChk := satInc s.host.cnt.errChk, errType := satInc s.host.cnt.errType }
      intstat := raiseInt .err s.host.intstat } := by
  rw [← raiseInt_raiseInt]
  rfl

/-- Settles O21: ERR_CHK, then the byte where a frame would start. -/
theorem failedShortFrameRestarts : Obligations.FailedShortFrameRestarts := by
  intro s b hs hon hx hmax hr hb
  have hno : ¬ EndsCandidate s b := fun h => hb h.1
  have hstep : rxByteStep b s = endOfStep (startFrame b ((countEvent .errChk s).setFrx (s.frx.ended .idle b))) := by
    rw [rxByteStep_of_collect hx hon, collectByte_of_not_ends hno, if_neg (not_not.mpr hmax), if_neg hb, if_pos hr]
  simp only [← satInc_byte]
  refine ⟨fun k d hc => congrArg Host.Outcome.next ?_, fun hc => congrArg Host.Outcome.next ?_⟩
  · rw [hstep, startFrame_of_type hb (by simpa using hc)]
    exact hs.endOfStep_of_host_frx (by rfl) _
  · rw [hstep, startFrame_of_unknown hb (by simpa using hc), countEvent_setFrx, countEvent_errType_errChk]
    exact hs.endOfStep_of_host_frx (by rfl) _

end Sys2Proof.Machine

/-! SUPPORT. A frame with one corrupted byte (spec/43_framing_checksum.md R204): what leaves it undelivered, which of its
candidates end, and where the scan of its bytes stops. -/
namespace Sys2Proof.Machine
open Sys2Proof

/-! ### Nothing delivered (R200) -/

/-- Of `s` only the receiver, CNT, INTSTAT but its bit RXF, and IRQ may have moved in `t`: no frame was dispatched (R200,
R204). -/
structure Undelivered (s t : State) : Prop where
  seq : t.seq = s.seq
  table : t.table = s.table
  txlog : t.out.txlog = s.out.txlog
  nvlog : t.out.nvlog = s.out.nvlog
  host : t.host = { s.host with cnt := t.host.cnt, intstat := t.host.intstat }
  rxf : t.host.intstat.getLsbD 0 = s.host.intstat.getLsbD 0

/-- The receiver's errors: an unknown type, a failed checksum, no delimiter (R252 to R254). -/
def Event.ofReceiver : Event → Bool
  | .errType | .errChk | .errFrame => true
  | .rxOvr | .cmdErr | .txnFail | .idFail => false

/-- A receiver's error moves CNT and raises ERR (R251). -/
theorem countEvent_host_of_receiver {e : Event} (he : e.ofReceiver = true) (s : State) :
    (countEvent e s).host =
      { s.host with cnt := (countEvent e s).host.cnt, intstat := raiseInt .err s.host.intstat } := by
  cases e with
  | errType | errChk | errFrame => rfl
  | _ => exact absurd he Bool.false_ne_true

namespace Undelivered
variable {s t : State}

theorem refl (s : State) : Undelivered s s := ⟨rfl, rfl, rfl, rfl, rfl, rfl⟩

theorem setFrx (h : Undelivered s t) (f : Receiver) : Undelivered s (t.setFrx f) :=
  ⟨h.seq, h.table, h.txlog, h.nvlog, h.host, h.rxf⟩

theorem countEvent (h : Undelivered s t) {e : Event} (he : e.ofReceiver = true) : Undelivered s (countEvent e t) where
  seq := by simpa using h.seq
  table := by simpa using h.table
  txlog := by simpa using h.txlog
  nvlog := by simpa using h.nvlog
  host := by
    rw [countEvent_host_of_receiver he, h.host]
  rxf := by
    rw [countEvent_host_of_receiver he]
    exact (raiseInt_getLsbD_of_ne (by decide) _).trans h.rxf

theorem startFrame (h : Undelivered s t) (b : Byte) : Undelivered s (startFrame b t) := by
  rcases startFrame_cases b t with ⟨-, he⟩ | ⟨-, -, he⟩ | ⟨k, d, -, -, he⟩
  · rwa [he]
  · rw [he]
    exact (h.countEvent rfl).setFrx _
  · rw [he]
    exact h.setFrx _

/-- A byte inside a frame dispatches nothing unless it ends a valid candidate (R196, R200). -/
theorem collectByte (h : Undelivered s t) {b : Byte} (hno : ¬ EndsCandidate t b) : Undelivered s (collectByte b t) := by
  rw [collectByte_of_not_ends hno]
  split
  · exact h.setFrx _
  · split
    · exact (h.countEvent rfl).setFrx _
    · split
      · exact ((h.countEvent rfl).setFrx _).startFrame b
      · exact (h.countEvent rfl).setFrx _

/-- The end of the step sends nothing, as nothing was due before the byte (R233). -/
theorem endOfStep (hs : Settled s) (h : Undelivered s t) : Undelivered s (endOfStep t) := by
  have hctrl : t.host.ctrl = s.host.ctrl := by rw [h.host]
  rw [endOfStep_of_quiet (hs.quiet.of_eq (congrArg Ctrl.seqEn hctrl) h.seq)]
  exact ⟨h.seq, h.table, h.txlog, h.nvlog, h.host, h.rxf⟩

end Undelivered

/-! ### The candidates of a corrupted frame (R190, R199) -/

/-- The bytes of a frame with byte `p` replaced. -/
theorem getD_set (fb : List Byte) (p : Nat) (b : Byte) (q : Nat) :
    (fb.set p b).getD q 0 = if q = p ∧ p < fb.length then b else fb.getD q 0 := by
  rw [List.getD_eq_getElem?_getD, List.getD_eq_getElem?_getD, List.getElem?_set]
  by_cases hq : p = q
  · by_cases hp : p < fb.length
    · simp [hq, hq ▸ hp]
    · simp [hq, hq ▸ hp]
  · simp [hq, Ne.symm hq]

/-- Under P4 a frame with one changed byte does not end at its own length: the checksum of a changed byte before it is another
one, and a changed checksum or delimiter is not the frame's (R190, R204). -/
theorem endsAt_set_of_p4 {c : Checksum} (hP : P4 c) {fb : List Byte} {p : Nat} {b : Byte} (h3 : 3 ≤ fb.length)
    (hp : p < fb.length) (hb : b ≠ fb.getD p 0) (hends : endsAt c fb fb.length = true) :
    endsAt c (fb.set p b) fb.length = false := by
  rw [Bool.eq_false_iff]
  intro hends'
  obtain ⟨-, hdelim, hv⟩ := endsAt_iff.mp hends
  obtain ⟨-, hdelim', hv'⟩ := endsAt_iff.mp hends'
  simp only [validAt, beq_iff_eq] at hv hv'
  by_cases hbody : p < fb.length - 3
  · rw [getD_set, getD_set, if_neg (by omega), if_neg (by omega), ← hv, List.take_set] at hv'
    refine hP (fb.take (fb.length - 3)) p b (by simp; omega) ?_ hv'
    rwa [List.getD_eq_getElem?_getD, List.getElem?_take_of_lt hbody, ← List.getD_eq_getElem?_getD]
  · rw [List.take_set_of_le (by omega), hv, Prod.mk.injEq] at hv'
    obtain ⟨hhigh, hlow⟩ := hv'
    have hsame : (fb.set p b).getD p 0 = fb.getD p 0 := by
      obtain hq | hq | hq : p = fb.length - 3 ∨ p = fb.length - 2 ∨ p = fb.length - 1 := by omega
      · rw [hq] at hhigh ⊢
        exact hhigh.symm
      · rw [hq] at hlow ⊢
        exact hlow.symm
      · rw [hq] at hdelim' ⊢
        exact hdelim'.trans hdelim.symm
    rw [getD_set, if_pos ⟨rfl, hp⟩] at hsame
    exact hb hsame

/-- The only candidate length that is not the class's longest is 9 (R198). -/
theorem eq_maxLen_or_eq_nine {k : MsgClass} {n : Nat} (h : n ∈ candLens k) : n = maxLen k ∨ n = 9 ∧ k ≠ .id := by
  by_cases hid : k = .id
  · exact .inl (by simpa [hid, candLens, maxLen] using h)
  · rcases (mem_candLens_of_ne_id hid).mp h with h9 | h10
    · exact .inr ⟨h9, hid⟩
    · exact .inl (h10.trans (maxLen_of_ne_id hid).symm)

/-- No candidate ends in a frame with one corrupted byte, outside R204's exception. -/
theorem endsAt_corrupted {cfg : Config} {k : MsgClass} {d : Direction} {fb : List Byte} {p : Nat} {b : Byte}
    (hP : P4 cfg.chk) (hf : IsWireFrame cfg k d fb) (hp : p < fb.length) (hb : b ≠ fb.getD p 0)
    (hnine : fb.length = 10 → endsAt cfg.chk (fb.set p b) 9 = false) :
    ∀ m ∈ candLens k, endsAt cfg.chk (fb.set p b) m = false := by
  intro m hm
  have hlo := (candLens_range hf.len).1
  by_cases hown : m = fb.length
  · exact hown ▸ endsAt_set_of_p4 hP (by omega) hp hb hf.ends
  · rcases eq_maxLen_or_eq_nine hm with hmax | ⟨h9, hid⟩
    · rw [Bool.eq_false_iff]
      intro hends
      have hle := (endsAt_iff.mp hends).1
      have hhi := (candLens_range hf.len).2
      rw [List.length_set] at hle
      omega
    · have h10 : fb.length = 10 := by
        rcases (mem_candLens_of_ne_id hid).mp hf.len with h | h
        · omega
        · exact h
      exact h9 ▸ hnine h10

/-! ### The scan of a stretch in which no candidate ends (R195, R196) -/

section Unfinished
variable {s : State} {k : MsgClass} {d : Direction} {g : List Byte}

/-- A byte of a stretch in which no candidate ends ends none when it arrives (R99, R196). -/
theorem not_endsCandidate {rb : Vector Byte 10} {r : Bool} {n : Nat} (hn : n < g.length) (h10 : n < 10)
    (hno : n + 1 ∈ candLens k → endsAt s.cfg.chk g (n + 1) = false) (htake : rb.toList.take n = g.take n) :
    ¬ EndsCandidate (s.setFrx ⟨.collect, rb, n, k, d, r⟩) (g.getD n 0) := by
  rintro ⟨hb, hmem, hv⟩
  have h8 := (candLens_range hmem).1
  have hv' : validAt s.cfg.chk g (n + 1) = true :=
    (validAt_congr _ (Nat.le_trans (by decide) h8) (take_toList_setIfInBounds htake hn h10)).symm.trans hv
  have hends : endsAt s.cfg.chk g (n + 1) = true := endsAt_iff.mpr ⟨hn, hb, hv'⟩
  exact Bool.false_ne_true ((hno hmem).symm.trans hends)

/-- The bytes of a frame no candidate of which has ended yet are stored, below the maximum length, and nothing but the receiver
changes (R195, R196). -/
theorem receiveBytes_take_of_unfinished (hs : Settled s) (hon : s.host.ctrl.rxEn = true) (hx : s.frx.rxs = .idle)
    (htype : g.getD 0 0 = typeCode s.cfg.tc k d) (hno : ∀ m ∈ candLens k, endsAt s.cfg.chk g m = false) {n : Nat}
    (h1 : 1 ≤ n) (hn : n ≤ g.length) (hmax : n < maxLen k) :
    ∃ rb r, rb.toList.take n = g.take n ∧ receiveBytes (g.take n) s = s.setFrx ⟨.collect, rb, n, k, d, r⟩ := by
  have h10 := maxLen_le k
  induction n, h1 using Nat.le_induction with
  | base =>
    have hfirst : receiveBytes (g.take 1) s = rxByteStep (typeCode s.cfg.tc k d) s := by
      rw [take_succ_eq_append_getD hn, htype]
      rfl
    refine ⟨_, _, ?_, hfirst.trans (rxByteStep_of_type hs hon hx k d)⟩
    rw [← htype]
    exact take_toList_setIfInBounds (n := 0) rfl hn (by omega)
  | succ n h1 ih =>
    obtain ⟨rb, r, htake, hrecv⟩ := ih (by omega) (by omega)
    have hends := not_endsCandidate (d := d) (r := r) hn (by omega) (hno (n + 1)) htake
    have hstored := rxByteStep_of_stored (s := s.setFrx ⟨.collect, rb, n, k, d, r⟩) (hs.setFrx _) hon rfl hmax.ne hends
    refine ⟨_, _, take_toList_setIfInBounds htake hn (by omega), Eq.trans ?_ hstored⟩
    rw [take_succ_eq_append_getD hn, receiveBytes_append, hrecv, receiveBytes_singleton]

/-- A stretch of a candidate length in which no candidate ends: its last byte finds the others stored, and ends none (R195,
R196). -/
theorem receiveBytes_of_unfinished (hs : Settled s) (hon : s.host.ctrl.rxEn = true) (hx : s.frx.rxs = .idle)
    (htype : g.getD 0 0 = typeCode s.cfg.tc k d) (hlen : g.length ∈ candLens k)
    (hno : ∀ m ∈ candLens k, endsAt s.cfg.chk g m = false) :
    ∃ f : Receiver, f.rxs = .collect ∧ f.rn + 1 = g.length ∧ f.rk = k ∧
      ¬ EndsCandidate (s.setFrx f) (g.getD (g.length - 1) 0) ∧
      receiveBytes g s = rxByteStep (g.getD (g.length - 1) 0) (s.setFrx f) := by
  obtain ⟨hlo, hhi⟩ := candLens_range hlen
  have h10 := maxLen_le k
  obtain ⟨n, hn⟩ : ∃ n, g.length = n + 1 := ⟨g.length - 1, by omega⟩
  have hlt : n < g.length := hn ▸ n.lt_succ_self
  rw [hn, Nat.add_sub_cancel]
  obtain ⟨rb, r, htake, hrecv⟩ := receiveBytes_take_of_unfinished hs hon hx htype hno (n := n) (by omega) hlt.le (by omega)
  refine ⟨⟨.collect, rb, n, k, d, r⟩, rfl, rfl, rfl, not_endsCandidate hlt (by omega) (hno (n + 1)) htake, ?_⟩
  calc receiveBytes g s
      = receiveBytes (g.take n ++ [g.getD n 0]) s := by
        rw [← take_succ_eq_append_getD hlt, List.take_of_length_le hn.le]
    _ = rxByteStep (g.getD n 0) (s.setFrx ⟨.collect, rb, n, k, d, r⟩) := by
        rw [receiveBytes_append, hrecv, receiveBytes_singleton]

end Unfinished

/-- Settles O22: no candidate ends in the corrupted frame, so its last byte finds the others stored and dispatches nothing; a
delimiter there fails its checksum, at the maximum length or at the short one. -/
theorem corruptedFrameNotDelivered : Obligations.CorruptedFrameNotDelivered := by
  intro s i k d fb p b hs hP hon hx hparts hwf h1 hp hb hnine t
  have hf := isWireFrame_of_frameParts hparts hwf
  have hlo := (candLens_range hf.len).1
  have hlen : (fb.set p b).length = fb.length := List.length_set
  have htype : (fb.set p b).getD 0 0 = typeCode s.cfg.tc k d := by
    rw [getD_set, if_neg (by omega)]
    exact hf.type
  obtain ⟨f, hcollect, hrn, rfl, hno, hrecv⟩ := receiveBytes_of_unfinished hs hon hx htype (hlen.symm ▸ hf.len)
    (endsAt_corrupted hP hf hp hb hnine)
  rw [hlen] at hrn hno hrecv
  have hun : Undelivered s t := by
    have ht : t = _ := hrecv.trans (rxByteStep_of_collect (s := s.setFrx f) hcollect hon _)
    exact ht ▸ (((Undelivered.refl s).setFrx f).collectByte hno).endOfStep hs
  have hlast (hpos : p + 1 < fb.length) : (fb.set p b).getD (fb.length - 1) 0 = DELIM := by
    rw [getD_set, if_neg (by omega)]
    exact (endsAt_iff.mp hf.ends).2.1
  refine ⟨hun.seq, hun.table, hun.txlog, hun.nvlog, hun.host, hun.rxf, fun hpos h9 => ?_, fun hpos h9 => ?_⟩
  · have hmax : fb.length = maxLen f.rk := (eq_maxLen_or_eq_nine hf.len).resolve_right fun h => h9 h.1
    have ht : t = _ := hrecv.trans (rxByteStep_of_failed hon hcollect (hrn.trans hmax) (hlast hpos) hno)
    rw [ht, endOfStep_frx, endOfStep_host, ← satInc_byte]
    exact ⟨rfl, rfl, rfl⟩
  · have hid : f.rk ≠ .id := by
      intro hk
      have hmem := hf.len
      simp [candLens, h9, hk] at hmem
    have hmax : f.rn + 1 ≠ maxLen f.rk := by
      rw [hrn, h9, maxLen_of_ne_id hid]
      decide
    have ht : t = _ := hrecv.trans (rxByteStep_of_stored (hs.setFrx f) hon hcollect hmax hno)
    rw [decide_eq_true ⟨hlast hpos, hrn.symm ▸ hf.len⟩] at ht
    rw [ht]
    exact ⟨hcollect, hrn.trans h9, Bool.or_true _, rfl⟩

end Sys2Proof.Machine

/-! SUPPORT. The host interface (spec/44_host_interface.md): every step ends settled (R233), what the housekeeping commands do
(R224 to R227), and what a register write stores and leaves alone (R221, R228 to R232).
-/
namespace Sys2Proof.Machine
open Sys2Proof

/-! ### The end of a step settles the block (R233) -/

/-- After a grant the slot is held, and without one nothing was sendable; IRQ is set last (R114, R233). -/
theorem settled_endOfStep (w : State) : Settled (endOfStep w) where
  arbitrated := by
    rcases arbitrate_cases w with ⟨he, hquiet⟩ | ⟨c, -, -, -, he⟩
    · exact Quiet.of_eq hquiet (by rw [endOfStep_host]) (by rw [endOfStep_seq, he])
    · intro _ hfree
      rw [endOfStep_seq, he, grant_infl] at hfree
      cases hfree
  irq := by rw [endOfStep_irq, endOfStep_host]

/-- A stretch of the wire ends with the end of its last byte's step (R194). -/
theorem settled_receiveBytes {bs : List Byte} (h : bs ≠ []) (s : State) : Settled (receiveBytes bs s) := by
  rw [← List.dropLast_append_getLast h, receiveBytes_append, receiveBytes_singleton]
  exact settled_endOfStep _

/-- Settles O42: a wire frame ends with the step of its last byte, every other instruction is one event and its end of
step. -/
theorem everyStepSettles : Obligations.EveryStepSettles := by
  intro i s t h
  cases i with
  | idReq | idResp | reqReq | reqResp | wdReq | wdResp | dataReq | dataResp =>
    cases h
    exact settled_receiveBytes (List.cons_ne_nil _ _) s
  | _ =>
    obtain ⟨w, -, rfl, -⟩ := exec_eventEnds h fun _ => rfl
    exact settled_endOfStep w

/-! ### Housekeeping commands (R224 to R227) -/

/-- Settles O55: NOP has no work, and the end of the step leaves a settled state alone. -/
theorem nopChangesNothing : Obligations.NopChangesNothing :=
  fun _ hs => congrArg Host.Outcome.next (endOfStep_of_settled hs)

/-- Settles O56: RXF_VALID is no concern of the end of the step. -/
theorem rxPopReleases : Obligations.RxPopReleases :=
  fun _ hs => congrArg Host.Outcome.next (endOfStep_of_settled (hs.setHost rfl rfl rfl))

/-- Settles O57: the counters and the two flags are no concern of the end of the step. -/
theorem clrErrClears : Obligations.ClrErrClears :=
  fun _ hs => congrArg Host.Outcome.next (endOfStep_of_settled (hs.setHost rfl rfl rfl))

/-- The end of a step whose work moved host registers, CTRL not among them: IRQ follows, and nothing is sent (R233). -/
theorem Settled.endOfStep_of_host {s : State} (hs : Settled s) {g : HostRegs} (hctrl : g.ctrl = s.host.ctrl) :
    endOfStep (s.setHost g) = { s with host := g, out := { s.out with irq := irqLevel g } } :=
  hs.endOfStep_of_host_frx hctrl s.frx

/-- Settles O58: a reserved opcode of either range records CMD_ERR, whatever the opcode. -/
theorem reservedOpcodesFlagged : Obligations.ReservedOpcodesFlagged := by
  intro s op i hs hi
  have hexec : exec i s = .next (endOfStep (countEvent .cmdErr s)) := by rcases hi with rfl | rfl <;> rfl
  obtain ⟨-, -, -, -, hcmd, -, -⟩ := eventsRecord s
  rw [hexec, hcmd]
  exact congrArg Host.Outcome.next
    (hs.endOfStep_of_host (g := { s.host with cmdErr := true, intstat := s.host.intstat ||| 0x20 }) rfl)

/-! ### Writes to INTSTAT and to read-only places (R228, R230, R232) -/

/-- Settles O49: the cleared bits are the mask's, and IRQ follows at the end of the step. -/
theorem intstatWriteOneClears : Obligations.IntstatWriteOneClears := by
  intro s v hs
  have hstep := hs.endOfStep_of_host (g := { s.host with intstat := s.host.intstat &&& ~~~(v.extractLsb' 0 6) }) rfl
  refine ⟨_, congrArg Host.Outcome.next hstep, fun j hj => ?_, rfl⟩
  simp [hj]

/-- A write to a read-only, reserved or hardwired place has no work (R230, R232). -/
theorem writeReg_of_ignored {r : Reg} (h : writeIgnored r = true) (v : Word) (s : State) : writeReg r v s = s := by
  cases r with
  | status | addr | tcodes | cnt | rxinfo | rxbuf0 | rxbuf1 | rxbuf2 | reserved => rfl
  | period c =>
    cases c with
    | id | data => rfl
    | req | wd => cases h
  | retry c =>
    cases c with
    | id => rfl
    | req | wd | data => cases h
  | _ => cases h

/-- Settles O48: the write has no work, and the end of the step leaves a settled state alone. -/
theorem readOnlyWritesIgnored : Obligations.ReadOnlyWritesIgnored := by
  intro s r v hs hr
  have hcmd : r ≠ .cmd := by
    rintro rfl
    cases hr
  have hstep : regWriteStep r v s = s := by
    rw [regWriteStep, if_neg hcmd, writeReg_of_ignored hr, endOfStep_of_settled hs]
  exact congrArg Host.Outcome.next hstep

/-! ### The fields of a masked word -/

namespace FieldAt
variable {n l k i : Nat}

/-- Two adjacent fields are one field. -/
theorem append {w : BitVec n} {lo : BitVec l} {hi : BitVec k} (hlo : FieldAt w i lo) (hhi : FieldAt w (i + l) hi) :
    FieldAt w i (hi ++ lo) := by
  unfold FieldAt at *
  rw [← hlo, ← hhi]
  exact (BitVec.extractLsb'_append_extractLsb'_eq_extractLsb' rfl).symm

/-- A field as wide as its word is the word. -/
theorem eq_word {w f : BitVec n} (h : FieldAt w 0 f) : f = w := by
  rw [← h, BitVec.extractLsb'_eq_self]

/-- A field under ones of a mask stays. -/
theorem kept {v mask : BitVec n} (h : FieldAt mask i (BitVec.allOnes l)) : FieldAt (v &&& mask) i (v.extractLsb' i l) := by
  unfold FieldAt at *
  rw [BitVec.extractLsb'_and, h, BitVec.and_allOnes]

/-- A bit under a one of a mask stays. -/
theorem kept_bit {v mask : BitVec n} (h : FieldAt mask i (BitVec.allOnes 1)) :
    FieldAt (v &&& mask) i (BitVec.ofBool (v.getLsbD i)) := by
  have hbit : v.extractLsb' i 1 = BitVec.ofBool (v.getLsbD i) := by
    ext j hj
    obtain rfl : j = 0 := by omega
    simp
  exact hbit ▸ kept h

/-- A field under zeros of a mask is zero. -/
theorem masked {v mask : BitVec n} (h : FieldAt mask i (0 : BitVec l)) : FieldAt (v &&& mask) i (0 : BitVec l) := by
  unfold FieldAt at *
  rw [BitVec.extractLsb'_and, h]
  exact BitVec.and_zero

/-- A field with zeros up to the end of its word, widened, is the word. -/
theorem setWidth_eq_word {w : BitVec (k + l)} {f : BitVec l} (hlo : FieldAt w 0 f) (hhi : FieldAt w l (0 : BitVec k)) :
    f.setWidth (k + l) = w := by
  have happend : (0 : BitVec k) ++ f = w := (hlo.append ((Nat.zero_add l).symm ▸ hhi)).eq_word
  have hlt : f.toNat < 2 ^ (k + l) := f.isLt.trans_le (Nat.pow_le_pow_right Nat.two_pos (Nat.le_add_left l k))
  rw [← happend]
  exact BitVec.eq_of_toNat_eq (by simp [Nat.mod_eq_of_lt hlt])

end FieldAt

open FieldAt

/-- A KIND field reads as it was written (R10). -/
theorem toBits_ofBits (x : BitVec 2) : (MsgClass.ofBits x).toBits = x := by
  revert x
  decide

/-- A DIR bit reads as it was written (R11). -/
theorem toBool_ofBool (b : Bool) : (Direction.ofBool b).toBool = b := by
  cases b <;> rfl

/-! ### A word from its fields (R33, R40, R63) -/

theorem packLanes_eq_word {w : Word} {b0 b1 b2 b3 : Byte} (h0 : FieldAt w 0 b0) (h1 : FieldAt w 8 b1) (h2 : FieldAt w 16 b2)
    (h3 : FieldAt w 24 b3) : packLanes b0 b1 b2 b3 = w :=
  (h0.append (h1.append (h2.append h3))).eq_word

theorem txCfg_toWord_eq_word {w : Word} {t : TxCfg} (hkind : FieldAt w 0 t.kind.toBits)
    (hdir : FieldAt w 2 (BitVec.ofBool t.dir.toBool)) (hbp : FieldAt w 3 (BitVec.ofBool t.bp))
    (hzero : FieldAt w 4 (0 : BitVec 4)) (hval : FieldAt w 8 t.value) (hbatt : FieldAt w 16 t.batt)
    (hrest : FieldAt w 24 (0 : BitVec 8)) : t.toWord = w :=
  (hkind.append (hdir.append (hbp.append (hzero.append (hval.append (hbatt.append hrest)))))).eq_word

theorem retry_toWord_eq_word {w : Word} {r : Retry} (hrwin : FieldAt w 0 r.rwin) (hren : FieldAt w 16 (BitVec.ofBool r.ren))
    (hrinf : FieldAt w 17 (BitVec.ofBool r.rinf)) (hrest : FieldAt w 18 (0 : BitVec 14)) : r.toWord = w :=
  (hrwin.append (hren.append (hrinf.append hrest))).eq_word

/-! ### What a write stores, as it reads back (R24, R27, R28, R33, R34, R38 to R40, R42) -/

theorem packLanes_lanes (v : Word) : packLanes (lane v 0) (lane v 1) (lane v 2) (lane v 3) = v &&& 0xFFFFFFFF :=
  packLanes_eq_word (kept rfl) (kept rfl) (kept rfl) (kept rfl)

theorem packLanes_low_lanes (v : Word) : packLanes (lane v 0) (lane v 1) 0 0 = v &&& 0xFFFF :=
  packLanes_eq_word (kept rfl) (kept rfl) (masked rfl) (masked rfl)

theorem txcfgOf_toWord (v : Word) : (txcfgOf v).toWord = v &&& 0x00FFFF0F := by
  refine txCfg_toWord_eq_word ?_ ?_ (kept_bit rfl) (masked rfl) (kept rfl) (kept rfl) (masked rfl)
  · rw [txcfgOf, toBits_ofBits]
    exact kept rfl
  · rw [txcfgOf, toBool_ofBool]
    exact kept_bit rfl

theorem retryOf_toWord (v : Word) : (retryOf v).toWord = v &&& 0x3FFFF :=
  retry_toWord_eq_word (kept rfl) (kept_bit rfl) (kept_bit rfl) (masked rfl)

theorem low16_setWidth (v : Word) : (v.extractLsb' 0 16).setWidth 32 = v &&& 0xFFFF :=
  setWidth_eq_word (k := 16) (kept rfl) (masked rfl)

theorem low6_setWidth (v : Word) : (v.extractLsb' 0 6).setWidth 32 = v &&& 0x3F :=
  setWidth_eq_word (k := 26) (kept rfl) (masked rfl)

/-- A register read does not look at the outputs. -/
@[simp] theorem readReg_setOut (s : State) (o : Outputs) (r : Reg) : readReg (s.setOut o) r = readReg s r := by
  cases r <;> rfl

theorem readReg_ctrlWrite (v : Word) (s : State) : readReg (ctrlWrite v s) .ctrl = v &&& 0x3F := by
  rw [← ctrlOf_toBits, readReg, ctrlWrite_host]

/-- A written register reads the bits of its mask (R221). -/
theorem readReg_writeReg_self {r : Reg} {mask : Word} (h : writeMask r = some mask) (v : Word) (s : State) :
    readReg (writeReg r v s) r = v &&& mask := by
  cases r with
  | ctrl => cases h; exact readReg_ctrlWrite v s
  | idcfg | txaddr => cases h; exact packLanes_lanes v
  | sval => cases h; exact packLanes_low_lanes v
  | txcfg => cases h; exact txcfgOf_toWord v
  | inten => cases h; exact low6_setWidth v
  | period c =>
    cases c with
    | req | wd => cases h; exact low16_setWidth v
    | id | data => cases h
  | wait c => cases h; cases c <;> exact low16_setWidth v
  | retry c =>
    cases c with
    | req | wd | data => cases h; exact retryOf_toWord v
    | id => cases h
  | _ => cases h

/-! ### What a write leaves alone (R221, R229, R230) -/

/-- A row replaced, one of whose fields stays, leaves that field of every row. -/
theorem get_setRow {α : Type} (field : TableRow → α) {s : State} {c k : MsgClass} {x : TableRow}
    (h : k = c → field x = field (s.table.get k)) : field ((s.setRow c x).table.get k) = field (s.table.get k) := by
  by_cases hk : k = c
  · rw [← h hk, hk]
    exact congrArg field (PerClass.get_set_self _ _ _)
  · exact congrArg field (PerClass.get_set_of_ne _ _ hk)

theorem readReg_period_setRow {s : State} {c k : MsgClass} {x : TableRow} (h : k = c → x.period = (s.table.get k).period) :
    readReg (s.setRow c x) (.period k) = readReg s (.period k) := by
  have hrow := get_setRow TableRow.period h
  cases k with
  | id | data => rfl
  | req | wd => exact congrArg (BitVec.setWidth 32) hrow

theorem readReg_wait_setRow {s : State} {c k : MsgClass} {x : TableRow} (h : k = c → x.wait = (s.table.get k).wait) :
    readReg (s.setRow c x) (.wait k) = readReg s (.wait k) :=
  congrArg (BitVec.setWidth 32) (get_setRow TableRow.wait h)

theorem readReg_retry_setRow {s : State} {c k : MsgClass} {x : TableRow} (h : k = c → x.retry = (s.table.get k).retry) :
    readReg (s.setRow c x) (.retry k) = readReg s (.retry k) := by
  have hrow := get_setRow TableRow.retry h
  cases k with
  | id => rfl
  | req | wd | data => exact congrArg Retry.toWord hrow

/-- A write to a register of the table leaves every other register (R229, R230). -/
theorem readReg_setRow {s : State} {c : MsgClass} {x : TableRow} {r : Reg}
    (hperiod : r = .period c → x.period = (s.table.get c).period) (hwait : r = .wait c → x.wait = (s.table.get c).wait)
    (hretry : r = .retry c → x.retry = (s.table.get c).retry) : readReg (s.setRow c x) r = readReg s r := by
  cases r with
  | period k => exact readReg_period_setRow (by rintro rfl; exact hperiod rfl)
  | wait k => exact readReg_wait_setRow (by rintro rfl; exact hwait rfl)
  | retry k => exact readReg_retry_setRow (by rintro rfl; exact hretry rfl)
  | _ => rfl

/-- A write, less CTRL, leaves what every other register reads (R221, R229). -/
theorem readReg_writeReg_of_ne {r r' : Reg} (hr : r ≠ .ctrl) (hne : r' ≠ r) (v : Word) (s : State) :
    readReg (writeReg r v s) r' = readReg s r' := by
  cases r with
  | ctrl => exact absurd rfl hr
  | period c =>
    simp only [writeReg, periodWrite]
    split
    · exact readReg_setRow (fun h => absurd h hne) (fun _ => rfl) (fun _ => rfl)
    · rfl
  | wait c => exact readReg_setRow (fun _ => rfl) (fun h => absurd h hne) (fun _ => rfl)
  | retry c =>
    simp only [writeReg, retryWrite]
    split
    · rfl
    · exact readReg_setRow (fun _ => rfl) (fun _ => rfl) (fun h => absurd h hne)
  | idcfg | sval | rtd | txcfg | txaddr | intstat | inten =>
    cases r' <;> first | rfl | exact absurd rfl hne
  | _ => rfl

/-- Settles O47: the written register by its mask, the others by the write's frame; the end of the step moves IRQ alone. -/
theorem regWriteReadsBack : Obligations.RegWriteReadsBack := by
  intro s r v mask hs hmask hr
  have hcmd : r ≠ .cmd := by
    rintro rfl
    cases hmask
  obtain ⟨hhost, hfrx, hseq, hout⟩ := writeReg_of_ne_ctrl hr v s
  obtain ⟨hcfg, hinputs⟩ := writeReg_cfg_inputs r v s
  have hquiet : Quiet (writeReg r v s) := hs.quiet.of_eq (by rw [hhost]) hseq
  have hexec : exec (.regWrite r v) s = .next (endOfStep (writeReg r v s)) := congrArg Host.Outcome.next (if_neg hcmd)
  rw [endOfStep_of_quiet hquiet] at hexec
  refine ⟨_, hexec, ?_, fun r' hne => ?_, hcfg, hfrx, hseq, hinputs, ?_⟩
  · rw [readReg_setOut, readReg_writeReg_self hmask]
  · rw [readReg_setOut, readReg_writeReg_of_ne hr hne]
  · rw [← hout]
    rfl

end Sys2Proof.Machine

/-! SUPPORT. The state after Reset: its work leaves the end of the step nothing to do
(spec/70_reset_and_hazards.md R280, R281).
-/
namespace Sys2Proof.Machine
open Sys2Proof

/-- Reset's work leaves the sequencer off and no interrupt raised (R280), so
the block is settled before the end of the step. -/
theorem settled_resetWork (nv : Addr) (s : State) : Settled (resetWork nv s) where
  arbitrated hon := absurd (show false = true from hon) Bool.false_ne_true
  irq := by simp [resetWork, State.resetWith, HostRegs.reset, irqLevel]

/-- The end of Reset's step adds nothing to its work. -/
theorem resetStep_eq_resetWork (nv : Addr) (s : State) : resetStep nv s = resetWork nv s := by
  rw [resetStep_eq, endOfStep_of_settled (settled_resetWork nv s)]

/-- ASSIGNED and UNASSIGNED by the stored address, in the order R281 gives them. -/
theorem Sequencer.reset_astate (cfg : Config) (nv : Addr) :
    (Sequencer.reset cfg nv).astate = if nv ≠ cfg.unassigned then .assigned else .unassigned :=
  (ite_not _ _ _).symm

/-- A machine that starts is one that Reset has just run on: Reset's work changes nothing there. -/
theorem resetWork_reset : resetWork Config.nvAddr State.reset = State.reset := rfl

/-- Settles O41: what Reset's work establishes from every state, read at the state a machine starts in. -/
theorem resetMeetsInvariants : Obligations.ResetMeetsInvariants := by
  unfold Obligations.ResetMeetsInvariants
  rw [← resetWork_reset]
  exact ⟨SequencerInv.resetWork _ _, ReceiverInv.resetWork _ _, settled_resetWork _ _⟩

/-- Settles O60: the step is Reset's work alone, whose elements are the table's, ASTATE by R281's test of the address. -/
theorem resetSetsEveryElement : Obligations.ResetSetsEveryElement := by
  intro s nv txn
  have hexec : exec (.reset nv) s = .next (resetWork nv s) :=
    congrArg Host.Outcome.next (resetStep_eq_resetWork nv s)
  rw [hexec, ← Sequencer.reset_astate]
  rfl

end Sys2Proof.Machine
